-- ==== Sys2Proof/Word.lean ====
section
/-! DEFINITION. The machine's words. All values are unsigned (00_scope.md R6, R8). -/

namespace Sys2Proof

/-- Contents of a general register and of one memory cell (10_state.md R20, 20_memory.md R50). -/
abbrev Byte := BitVec 8

/-- A 16-bit instruction word, and the width of `HALT_INFO` (30_encoding.md R80, 10_state.md R35). -/
abbrev Word := BitVec 16

/-- Addresses: the 16 bits of `I` (`I_W` of 00_scope.md R4), and the field that holds `pc` and a stack entry, whose
widths `PC_W` and `STACK_W` are parameters (00_scope.md R5; `Params`; log 8). -/
abbrev Addr := BitVec 16

/-- The unit instructions are decoded on (30_encoding.md R82). -/
abbrev Nibble := BitVec 4

/-- The 12-bit `addr` field of an instruction (30_encoding.md R83). -/
abbrev Addr12 := BitVec 12

/-- A register index as an instruction names it: 0 to 15 (30_encoding.md R83). -/
abbrev RegIdx := Fin 16

end Sys2Proof
end

