-- ==== Sys2Proof/Syntax.lean ====
section
/-! DEFINITION. The instructions: one constructor per row of the opcode table, carrying the row's operand fields and
nothing else (30_encoding.md R83, R87, R91). -/

namespace Sys2Proof

/-- The 22 instructions of 30_encoding.md R87, in the table's order. -/
inductive Instr where
  /-- `00E0` (row 1). -/
  | clearDisplay
  /-- `00EE` (row 2), the table's Return. -/
  | ret
  /-- `0nnn` other than `00E0` and `00EE` (row 3). -/
  | call (addr : Addr12)
  /-- `1nnn` (row 4). -/
  | goto (addr : Addr12)
  /-- `2nnn` (row 5). -/
  | callSubroutine (addr : Addr12)
  /-- `3xkk` (row 6). -/
  | skipIfRegisterEquals (x : RegIdx) (imm8 : Byte)
  /-- `4xkk` (row 7). -/
  | skipIfRegisterNotEquals (x : RegIdx) (imm8 : Byte)
  /-- `5xy0` (row 8). -/
  | skipIfRegistersEqual (x y : RegIdx)
  /-- `6xkk` (row 9). -/
  | setRegister (x : RegIdx) (imm8 : Byte)
  /-- `7xkk` (row 10). -/
  | addToRegister (x : RegIdx) (imm8 : Byte)
  /-- `8xy0` (row 11). -/
  | copyRegister (x y : RegIdx)
  /-- `8xy1` (row 12). -/
  | or (x y : RegIdx)
  /-- `8xy2` (row 13). -/
  | and (x y : RegIdx)
  /-- `8xy3` (row 14). -/
  | xor (x y : RegIdx)
  /-- `8xy4` (row 15). -/
  | addRegisters (x y : RegIdx)
  /-- `8xy5` (row 16). -/
  | subtractRegisters (x y : RegIdx)
  /-- `Annn` (row 17). -/
  | setI (addr : Addr12)
  /-- `Bnnn` (row 18). -/
  | gotoPlusV0 (addr : Addr12)
  /-- `Cxkk` (row 19). -/
  | setRegisterRandomAnd (x : RegIdx) (imm8 : Byte)
  /-- `Dxyn` (row 20); `n` is the sprite's height. -/
  | draw (x y : RegIdx) (n : Fin 16)
  /-- `Fx55` (row 21); `x` is the last register stored. -/
  | dumpRegisters (x : RegIdx)
  /-- `Fx0A` (row 22). -/
  | getKey (x : RegIdx)
deriving DecidableEq, Repr

end Sys2Proof
end

