-- ==== Sys2Proof/WellFormed.lean ====
section
/-! DEFINITION. Which terms are instructions of the table. The operand types admit exactly the values the fields admit
(30_encoding.md R83: every value of every field is legal), so the one check is the table's precedence: the words
`00E0` and `00EE` are ClearDisplay and Return, not Call (30_encoding.md R86; log 20). -/

namespace Sys2Proof

/-- The term is the instruction some word decodes to. -/
def Instr.wf : Instr → Bool
  | .clearDisplay => true
  | .ret => true
  | .call addr => addr != 0x0E0#12 && addr != 0x0EE#12
  | .goto _ => true
  | .callSubroutine _ => true
  | .skipIfRegisterEquals _ _ => true
  | .skipIfRegisterNotEquals _ _ => true
  | .skipIfRegistersEqual _ _ => true
  | .setRegister _ _ => true
  | .addToRegister _ _ => true
  | .copyRegister _ _ => true
  | .or _ _ => true
  | .and _ _ => true
  | .xor _ _ => true
  | .addRegisters _ _ => true
  | .subtractRegisters _ _ => true
  | .setI _ => true
  | .gotoPlusV0 _ => true
  | .setRegisterRandomAnd _ _ => true
  | .draw _ _ _ => true
  | .dumpRegisters _ => true
  | .getKey _ => true

/-- `Instr.wf` as a proposition, the spelling statements use. -/
abbrev Instr.WellFormed (i : Instr) : Prop := i.wf = true

end Sys2Proof
end

