-- ==== Sys2Proof/Decode.lean ====
section
/-! DEFINITION. The decoder, a total function from a 16-bit word to an instruction or the decode error (30_encoding.md
R81 to R91), and after it the encoder, written from the same table. -/

namespace Sys2Proof

/-- Why a word is no instruction: the one decode error, carrying the raw word (30_encoding.md R88). -/
inductive DecodeError where
  | unknownInstruction (word : Word)
deriving DecidableEq, Repr

/-- `n0 = word[15:12]` (30_encoding.md R82). -/
def nib0 (w : Word) : Nibble := w.extractLsb' 12 4
/-- `n1 = word[11:8]`. -/
def nib1 (w : Word) : Nibble := w.extractLsb' 8 4
/-- `n2 = word[7:4]`. -/
def nib2 (w : Word) : Nibble := w.extractLsb' 4 4
/-- `n3 = word[3:0]`. -/
def nib3 (w : Word) : Nibble := w.extractLsb' 0 4

/-- A word from its four nibbles, most significant first (30_encoding.md R82). -/
def ofNibbles (n0 n1 n2 n3 : Nibble) : Word := n0 ++ n1 ++ n2 ++ n3

/-- The word of two fetched bytes, the byte at the lower address most significant (30_encoding.md R81). -/
def ofBytes (byte0 byte1 : Byte) : Word := byte0 ++ byte1

/-- `byte0 = word[15:8]`. -/
def highByte (w : Word) : Byte := w.extractLsb' 8 8
/-- `byte1 = word[7:0]`. -/
def lowByte (w : Word) : Byte := w.extractLsb' 0 8

/-- Field `x = word[11:8]` as a register index (30_encoding.md R83). -/
def fieldX (w : Word) : RegIdx := (nib1 w).toFin
/-- Field `y = word[7:4]`. -/
def fieldY (w : Word) : RegIdx := (nib2 w).toFin
/-- Field `n = word[3:0]`. -/
def fieldN (w : Word) : Fin 16 := (nib3 w).toFin
/-- Field `imm8 = word[7:0]`. -/
def fieldImm8 (w : Word) : Byte := nib2 w ++ nib3 w
/-- Field `addr = word[11:0]`. -/
def fieldAddr (w : Word) : Addr12 := nib1 w ++ nib2 w ++ nib3 w

/-- The pattern table of 30_encoding.md R87, searched from the top: the first row that matches selects the
instruction (R86), and a word no row matches fails with the raw word (R88). -/
def decode (w : Word) : Except DecodeError Instr :=
  if nib0 w = 0x0#4 ∧ nib1 w = 0x0#4 ∧ nib2 w = 0xE#4 ∧ nib3 w = 0x0#4 then .ok .clearDisplay
  else if nib0 w = 0x0#4 ∧ nib1 w = 0x0#4 ∧ nib2 w = 0xE#4 ∧ nib3 w = 0xE#4 then .ok .ret
  else if nib0 w = 0x0#4 then .ok (.call (fieldAddr w))
  else if nib0 w = 0x1#4 then .ok (.goto (fieldAddr w))
  else if nib0 w = 0x2#4 then .ok (.callSubroutine (fieldAddr w))
  else if nib0 w = 0x3#4 then .ok (.skipIfRegisterEquals (fieldX w) (fieldImm8 w))
  else if nib0 w = 0x4#4 then .ok (.skipIfRegisterNotEquals (fieldX w) (fieldImm8 w))
  else if nib0 w = 0x5#4 ∧ nib3 w = 0x0#4 then .ok (.skipIfRegistersEqual (fieldX w) (fieldY w))
  else if nib0 w = 0x6#4 then .ok (.setRegister (fieldX w) (fieldImm8 w))
  else if nib0 w = 0x7#4 then .ok (.addToRegister (fieldX w) (fieldImm8 w))
  else if nib0 w = 0x8#4 ∧ nib3 w = 0x0#4 then .ok (.copyRegister (fieldX w) (fieldY w))
  else if nib0 w = 0x8#4 ∧ nib3 w = 0x1#4 then .ok (.or (fieldX w) (fieldY w))
  else if nib0 w = 0x8#4 ∧ nib3 w = 0x2#4 then .ok (.and (fieldX w) (fieldY w))
  else if nib0 w = 0x8#4 ∧ nib3 w = 0x3#4 then .ok (.xor (fieldX w) (fieldY w))
  else if nib0 w = 0x8#4 ∧ nib3 w = 0x4#4 then .ok (.addRegisters (fieldX w) (fieldY w))
  else if nib0 w = 0x8#4 ∧ nib3 w = 0x5#4 then .ok (.subtractRegisters (fieldX w) (fieldY w))
  else if nib0 w = 0xA#4 then .ok (.setI (fieldAddr w))
  else if nib0 w = 0xB#4 then .ok (.gotoPlusV0 (fieldAddr w))
  else if nib0 w = 0xC#4 then .ok (.setRegisterRandomAnd (fieldX w) (fieldImm8 w))
  else if nib0 w = 0xD#4 then .ok (.draw (fieldX w) (fieldY w) (fieldN w))
  else if nib0 w = 0xF#4 ∧ nib2 w = 0x5#4 ∧ nib3 w = 0x5#4 then .ok (.dumpRegisters (fieldX w))
  else if nib0 w = 0xF#4 ∧ nib2 w = 0x0#4 ∧ nib3 w = 0xA#4 then .ok (.getKey (fieldX w))
  else .error (.unknownInstruction w)

/-- The decoder on the two bytes of an instruction, total on any bytes (30_encoding.md R81). -/
def decodeBytes (byte0 byte1 : Byte) : Except DecodeError Instr := decode (ofBytes byte0 byte1)

/-- A register index as the nibble that encodes it. -/
def regNibble (r : RegIdx) : Nibble := BitVec.ofFin r

/-- Format `A` with top nibble `n0` (30_encoding.md R84). -/
def formatA (n0 : Nibble) (addr : Addr12) : Word :=
  ofNibbles n0 (addr.extractLsb' 8 4) (addr.extractLsb' 4 4) (addr.extractLsb' 0 4)

/-- Format `XI` with top nibble `n0`. -/
def formatXI (n0 : Nibble) (x : RegIdx) (imm8 : Byte) : Word :=
  ofNibbles n0 (regNibble x) (imm8.extractLsb' 4 4) (imm8.extractLsb' 0 4)

/-- Format `XY` (with its fixed low nibble) and format `XYN` (with the height there). -/
def formatXYN (n0 : Nibble) (x y : RegIdx) (n3 : Nibble) : Word :=
  ofNibbles n0 (regNibble x) (regNibble y) n3

/-- Format `XF` with its two fixed low nibbles. -/
def formatXF (n0 : Nibble) (x : RegIdx) (n2 n3 : Nibble) : Word := ofNibbles n0 (regNibble x) n2 n3

/-- The word of an instruction, row by row of 30_encoding.md R87. -/
def encode : Instr → Word
  | .clearDisplay => 0x00E0#16
  | .ret => 0x00EE#16
  | .call addr => formatA 0x0#4 addr
  | .goto addr => formatA 0x1#4 addr
  | .callSubroutine addr => formatA 0x2#4 addr
  | .skipIfRegisterEquals x imm8 => formatXI 0x3#4 x imm8
  | .skipIfRegisterNotEquals x imm8 => formatXI 0x4#4 x imm8
  | .skipIfRegistersEqual x y => formatXYN 0x5#4 x y 0x0#4
  | .setRegister x imm8 => formatXI 0x6#4 x imm8
  | .addToRegister x imm8 => formatXI 0x7#4 x imm8
  | .copyRegister x y => formatXYN 0x8#4 x y 0x0#4
  | .or x y => formatXYN 0x8#4 x y 0x1#4
  | .and x y => formatXYN 0x8#4 x y 0x2#4
  | .xor x y => formatXYN 0x8#4 x y 0x3#4
  | .addRegisters x y => formatXYN 0x8#4 x y 0x4#4
  | .subtractRegisters x y => formatXYN 0x8#4 x y 0x5#4
  | .setI addr => formatA 0xA#4 addr
  | .gotoPlusV0 addr => formatA 0xB#4 addr
  | .setRegisterRandomAnd x imm8 => formatXI 0xC#4 x imm8
  | .draw x y n => formatXYN 0xD#4 x y (BitVec.ofFin n)
  | .dumpRegisters x => formatXF 0xF#4 x 0x5#4 0x5#4
  | .getKey x => formatXF 0xF#4 x 0x0#4 0xA#4

/-- One row of the opcode table: a word `w` matches it when `w &&& mask = pattern` (30_encoding.md R87). -/
structure TableRow where
  mask : Word
  pattern : Word
deriving DecidableEq, Repr

/-- The row's test on a word. -/
def TableRow.matchesWord (r : TableRow) (w : Word) : Bool := w &&& r.mask == r.pattern

/-- The row of 30_encoding.md R87 (and of spec/opcode_table.json) that an instruction belongs to. -/
def Instr.row : Instr → TableRow
  | .clearDisplay => ⟨0xFFFF#16, 0x00E0#16⟩
  | .ret => ⟨0xFFFF#16, 0x00EE#16⟩
  | .call _ => ⟨0xF000#16, 0x0000#16⟩
  | .goto _ => ⟨0xF000#16, 0x1000#16⟩
  | .callSubroutine _ => ⟨0xF000#16, 0x2000#16⟩
  | .skipIfRegisterEquals _ _ => ⟨0xF000#16, 0x3000#16⟩
  | .skipIfRegisterNotEquals _ _ => ⟨0xF000#16, 0x4000#16⟩
  | .skipIfRegistersEqual _ _ => ⟨0xF00F#16, 0x5000#16⟩
  | .setRegister _ _ => ⟨0xF000#16, 0x6000#16⟩
  | .addToRegister _ _ => ⟨0xF000#16, 0x7000#16⟩
  | .copyRegister _ _ => ⟨0xF00F#16, 0x8000#16⟩
  | .or _ _ => ⟨0xF00F#16, 0x8001#16⟩
  | .and _ _ => ⟨0xF00F#16, 0x8002#16⟩
  | .xor _ _ => ⟨0xF00F#16, 0x8003#16⟩
  | .addRegisters _ _ => ⟨0xF00F#16, 0x8004#16⟩
  | .subtractRegisters _ _ => ⟨0xF00F#16, 0x8005#16⟩
  | .setI _ => ⟨0xF000#16, 0xA000#16⟩
  | .gotoPlusV0 _ => ⟨0xF000#16, 0xB000#16⟩
  | .setRegisterRandomAnd _ _ => ⟨0xF000#16, 0xC000#16⟩
  | .draw _ _ _ => ⟨0xF000#16, 0xD000#16⟩
  | .dumpRegisters _ => ⟨0xF0FF#16, 0xF055#16⟩
  | .getKey _ => ⟨0xF0FF#16, 0xF00A#16⟩

/-- The opcode table's 22 rows by mask and match, in precedence order (30_encoding.md R86, R87). -/
def opcodeRows : List TableRow :=
  [⟨0xFFFF#16, 0x00E0#16⟩, ⟨0xFFFF#16, 0x00EE#16⟩, ⟨0xF000#16, 0x0000#16⟩, ⟨0xF000#16, 0x1000#16⟩,
   ⟨0xF000#16, 0x2000#16⟩, ⟨0xF000#16, 0x3000#16⟩, ⟨0xF000#16, 0x4000#16⟩, ⟨0xF00F#16, 0x5000#16⟩] ++
  [⟨0xF000#16, 0x6000#16⟩, ⟨0xF000#16, 0x7000#16⟩, ⟨0xF00F#16, 0x8000#16⟩, ⟨0xF00F#16, 0x8001#16⟩,
   ⟨0xF00F#16, 0x8002#16⟩, ⟨0xF00F#16, 0x8003#16⟩, ⟨0xF00F#16, 0x8004#16⟩, ⟨0xF00F#16, 0x8005#16⟩] ++
  [⟨0xF000#16, 0xA000#16⟩, ⟨0xF000#16, 0xB000#16⟩, ⟨0xF000#16, 0xC000#16⟩, ⟨0xF000#16, 0xD000#16⟩,
   ⟨0xF0FF#16, 0xF055#16⟩, ⟨0xF0FF#16, 0xF00A#16⟩]

/-- The instruction word of a table row's bits: bit 0 is the word's least significant bit, and every bit from `nbits`
on is 0. -/
def tableWord (nbits w : Nat) : Word := BitVec.ofNat 16 (w % 2 ^ nbits)

/-- The instruction the decoder reads from a table word laid out in memory, most significant byte first. -/
def decodeTableWord (nbits w : Nat) : Option Instr :=
  (decodeBytes (highByte (tableWord nbits w)) (lowByte (tableWord nbits w))).toOption

end Sys2Proof
end

