-- ==== Sys2Proof/Config.lean ====
section
/-! DEFINITION. The parameters the document fixes (00_scope.md R4) and the free values the spec leaves open
(93_implementation_defined.md U1, U2). The parameters it leaves open (R5) are the fields of `Params`, in
Machine/Params.lean. -/

namespace Sys2Proof.Config

/-- `MEM_SIZE`: bytes of memory (00_scope.md R4). -/
abbrev memSize : Nat := 4096

/-- `FB_W`: framebuffer columns (00_scope.md R4). -/
abbrev fbWidth : Nat := 64

/-- `FB_H`: framebuffer rows (00_scope.md R4). -/
abbrev fbHeight : Nat := 32

/-- `PROG_BASE`: where programs load and where `pc` points after reset (00_scope.md R4). -/
abbrev progBase : Addr := 0x0200#16

/-- `ROM_MAX`: the largest program in bytes (00_scope.md R4). -/
abbrev romMax : Nat := 3584

/-- One report of the keypad, as the core sees it (45_keyboard.md R173, 50_interfaces.md R185). -/
inductive KeyReport where
  /-- No key yet. -/
  | noKey
  /-- A recognized key, 0 to 15. -/
  | key (k : Fin 16)
  /-- The key source failed. -/
  | failure
deriving DecidableEq, Repr, Inhabited

/-- FREE VALUE (93_implementation_defined.md U2; log 4): what the keypad reports at its n-th examination when
State lists no report. It has no body: nothing can be proved of it. -/
opaque keyReport : Nat → KeyReport

/-- FREE VALUE (93_implementation_defined.md U1; log 5): the n-th byte of the random source when State lists no
byte. It has no body: nothing can be proved of it. -/
opaque randomByte : Nat → Byte

end Sys2Proof.Config
end

