-- ==== Sys2Proof/Machine/Params.lean ====
section
/-! DEFINITION. The parameters the document leaves open, as named arguments of the machine with the spec's defaults
(00_scope.md R5; log 1). -/

namespace Sys2Proof.Machine

/-- The values of `DRAW_OFFSCREEN` the spec defines an effect for (00_scope.md R5). -/
inductive OffscreenPixel where
  /-- A pixel outside the grid is dropped (41_display.md R113). -/
  | clip
deriving DecidableEq, Repr

/-- The open parameters (00_scope.md R5). A machine is built with them and nothing changes them (`State.params`). -/
structure Params where
  /-- `STACK_DEPTH`: return addresses the stack holds (92_eei_decisions.md D4). -/
  stackDepth : Nat
  /-- `PC_W`: bits of the program counter (92_eei_decisions.md D1). -/
  pcW : Nat
  /-- `STACK_W`: bits per stack entry (92_eei_decisions.md D4). -/
  stackW : Nat
  /-- `FONT_BASE`: address of glyph 0's first byte (92_eei_decisions.md D5). -/
  fontBase : Nat
  /-- `FONT_TABLE`: the glyph bytes (92_eei_decisions.md D6). -/
  fontTable : List Byte
  /-- `DRAW_OFFSCREEN`: what a pixel outside the grid does (92_eei_decisions.md D11). -/
  drawOffscreen : OffscreenPixel
deriving DecidableEq, Repr

/-- The spec's defaults (00_scope.md R5). -/
def defaultParams : Params where
  stackDepth := 16
  pcW := 16
  stackW := 16
  fontBase := 0x050
  fontTable := Sys2Proof.Machine.fontTable
  drawOffscreen := .clip

/-- The constraints on the parameters: `sp`, 0 to `STACK_DEPTH`, is held in 5 bits (10_state.md R29), `PC_W` is at least
13 (92_eei_decisions.md D1), `STACK_W` equals it, the glyph table has 80 bytes and lies below 0x200 (00_scope.md R4, R5). -/
structure Params.Legal (p : Params) : Prop where
  stackDepthFits : p.stackDepth ≤ 31
  pcHolds : 13 ≤ p.pcW
  stackMatches : p.stackW = p.pcW
  fontReserved : p.fontBase + 80 ≤ 0x200
  fontComplete : p.fontTable.length = 80

/-- What memory holds at power-on: the glyph table at `FONT_BASE`, zero elsewhere (10_state.md R40, 20_memory.md R58,
R60). -/
def initialByte (p : Params) (a : Nat) : Byte :=
  if p.fontBase ≤ a ∧ a < p.fontBase + 80 then p.fontTable.getD (a - p.fontBase) 0x00#8 else 0x00#8

end Sys2Proof.Machine
end

