-- ==== Sys2Proof/Machine/Framebuffer.lean ====
section
/-! DEFINITION. The framebuffer: 2048 one-bit cells, cell `(x, y)` being element `y * 64 + x` of the sequence the renderer
sees (10_state.md R31, 20_memory.md R66). -/

namespace Sys2Proof.Machine

/-- The 2048 cells as one sequence of bits. -/
abbrev Framebuffer := BitVec 2048

/-- The place of cell `(x, y)` in the sequence (10_state.md R31, 92_eei_decisions.md D12). -/
def cellIndex (x : Fin Config.fbWidth) (y : Fin Config.fbHeight) : Nat := y.val * Config.fbWidth + x.val

/-- `fb[x, y]`. -/
def Framebuffer.cell (fb : Framebuffer) (x : Fin Config.fbWidth) (y : Fin Config.fbHeight) : Bool :=
  fb.getLsbD (cellIndex x y)

/-- `fb[x, y] <- b`. -/
def Framebuffer.setCell (fb : Framebuffer) (x : Fin Config.fbWidth) (y : Fin Config.fbHeight) (b : Bool) : Framebuffer :=
  if b then fb ||| (1#2048 <<< cellIndex x y) else fb &&& ~~~(1#2048 <<< cellIndex x y)

/-- Every cell 0 (41_display.md R110). -/
def Framebuffer.clear : Framebuffer := 0#2048

/-- Writes one pixel at exact coordinates; outside the grid no cell is addressed, and `DRAW_OFFSCREEN` says what happens
(41_display.md R112, R113). -/
def Framebuffer.plot (off : OffscreenPixel) (fb : Framebuffer) (px py : Nat) (b : Bool) : Framebuffer :=
  if h : px < Config.fbWidth ∧ py < Config.fbHeight then fb.setCell ⟨px, h.1⟩ ⟨py, h.2⟩ b
  else match off with
    | .clip => fb

/-- Column `col` of a sprite byte, 0 leftmost: bit `7 − col` (41_display.md R112, 92_eei_decisions.md D10). -/
def spriteBit (b : Byte) (col : Nat) : Bool := b.getLsbD (7 - col)

/-- Overwrites columns `0 .. cols − 1` of one sprite row (the inner loop of 41_display.md R111). -/
def Framebuffer.drawColumns (off : OffscreenPixel) (fb : Framebuffer) (b : Byte) (x0 py : Nat) : Nat → Framebuffer
  | 0 => fb
  | cols + 1 => (Framebuffer.drawColumns off fb b x0 py cols).plot off (x0 + cols) py (spriteBit b cols)

/-- Overwrites the eight cells of one sprite row. -/
def Framebuffer.drawByte (off : OffscreenPixel) (fb : Framebuffer) (b : Byte) (x0 py : Nat) : Framebuffer :=
  fb.drawColumns off b x0 py 8

end Sys2Proof.Machine
end

