-- ==== Sys2Proof/Machine/Memory.lean ====
section
/-! DEFINITION. Memory as plain data: the cells that differ from their power-on contents, addresses strictly rising
(20_memory.md R50). The bounds checker stands over it in Machine/Ops.lean. -/

namespace Sys2Proof.Machine

/-- The cells whose byte is not the power-on byte, by rising address. -/
abbrev Memory := List Host.Cell

/-- The byte at an address: the listed one, else the power-on byte. -/
def Memory.read (p : Params) : Memory → Nat → Byte
  | [], a => initialByte p a
  | (k, v) :: rest, a => if a < k then initialByte p a else if a = k then v else Memory.read p rest a

/-- Puts a cell in front of a list unless it says what an unlisted address reads as. -/
def Memory.consCell (p : Params) (a : Nat) (v : Byte) (m : Memory) : Memory :=
  if v = initialByte p a then m else (a, v) :: m

/-- Stores one byte, keeping the canonical form. -/
def Memory.write (p : Params) : Memory → Nat → Byte → Memory
  | [], a, v => Memory.consCell p a v []
  | (k, w) :: rest, a, v =>
    if a < k then Memory.consCell p a v ((k, w) :: rest)
    else if a = k then Memory.consCell p a v rest
    else (k, w) :: Memory.write p rest a v

/-- Canonical from address `lo` on: addresses strictly rising, inside memory, no cell equal to its power-on byte. -/
def Memory.canonicalFrom (p : Params) : Nat → Memory → Bool
  | _, [] => true
  | lo, (k, v) :: rest =>
    decide (lo ≤ k) && decide (k < Config.memSize) && (v != initialByte p k) && Memory.canonicalFrom p (k + 1) rest

/-- The canonical form: equal memories are equal lists. -/
def Memory.wf (p : Params) (m : Memory) : Bool := Memory.canonicalFrom p 0 m

end Sys2Proof.Machine
end

