-- ==== Sys2Proof/Machine/State.lean ====
section
/-! DEFINITION. The state of the machine (10_state.md R40), its errors and its reset. -/

namespace Sys2Proof.Machine

/-- `MODE` (10_state.md R33). -/
inductive Mode where
  | running
  | waitingForKey
  | halted
deriving DecidableEq, Repr

/-- `HALT_CAUSE` by name (60_exceptions.md R200); its numeric code is `HaltCause.code`. -/
inductive HaltCause where
  /-- Code 0: `MODE` is not `Halted`. -/
  | noCause
  | unknownInstruction
  | memoryOutOfBounds
  | registerInvalidIndex
  | stackOverflow
  | stackUnderflow
  | keyboardError
deriving DecidableEq, Repr

/-- An error with the value it carries (60_exceptions.md R200). -/
inductive CoreError where
  | unknownInstruction (word : Word)
  | memoryOutOfBounds (addr : Addr)
  | registerInvalidIndex (index : Word)
  | stackOverflow
  | stackUnderflow
  | keyboardError
deriving DecidableEq, Repr

/-- Who holds the framebuffer (50_interfaces.md R189). -/
inductive Grant where
  | nobody
  | core
  | renderer
deriving DecidableEq, Repr

/-- The outcome of one step (00_scope.md R9). -/
inductive StepOutcome where
  | done
  | suspended
  | halt (cause : HaltCause) (info : Word)
deriving DecidableEq, Repr

/-- Every piece of state the spec gives the machine (10_state.md R40; `fbGrant` from 50_interfaces.md R189), the
parameters it was built with, and, last, the model's own record of its inputs (log 4, log 5). -/
structure State where
  /-- The open parameters of 00_scope.md R5, fixed at power-on: no step and no operation changes them (log 1). -/
  params : Params
  /-- `V[0]` .. `V[15]`. -/
  regs : Vector Byte 16
  /-- The index register `I`. -/
  i : Addr
  /-- The program counter. -/
  pc : Addr
  /-- The stack pointer: the number of live entries, 0 to `STACK_DEPTH` (10_state.md R29; log 16). -/
  sp : Nat
  /-- The return-address stack: `STACK_DEPTH` entries (10_state.md R28; log 16). -/
  stack : List Addr
  /-- Memory. -/
  mem : Memory
  /-- The framebuffer. -/
  fb : Framebuffer
  /-- `MODE`. -/
  mode : Mode
  /-- `HALT_CAUSE`. -/
  haltCause : HaltCause
  /-- `HALT_INFO`. -/
  haltInfo : Word
  /-- `KEY_DEST`. -/
  keyDest : RegIdx
  /-- The arbiter's grant (log 10). -/
  fbGrant : Grant
  /-- The model's own: keypad reports supplied, oldest first (log 4). -/
  keyInput : List Config.KeyReport
  /-- The model's own: keypad examinations made (log 4). -/
  keyPolls : Nat
  /-- The model's own: random bytes supplied, oldest first (log 5). -/
  randInput : List Byte
  /-- The model's own: random draws made (log 5). -/
  draws : Nat
deriving DecidableEq, Repr

/-- No step faults: every error of 60_exceptions.md R200 is taken as the spec describes it, as a next state whose `MODE`
is `Halted` (log 7). -/
inductive Fault
deriving DecidableEq, Repr

/-- Why an instruction has no meaning here. -/
inductive Refusal where
  /-- Raised only by an arm of `exec` for an instruction not modelled yet; no arm does. Safe: the machine stops. -/
  | notModelled (mnemonic : String)
deriving DecidableEq, Repr

/-- The machine after power-on, built with the given parameters, by default the spec's (10_state.md R40, 70_reset_and_hazards.md R230, R232);
the last four fields are the model's own (log 6). -/
def State.powerOn (params : Params := defaultParams) : State where
  params := params
  regs := Vector.replicate 16 0x00#8
  i := 0x0000#16
  pc := Config.progBase
  sp := 0
  stack := List.replicate params.stackDepth 0x0000#16
  mem := []
  fb := Framebuffer.clear
  mode := .running
  haltCause := .noCause
  haltInfo := 0x0000#16
  keyDest := 0
  fbGrant := .nobody
  keyInput := []
  keyPolls := 0
  randInput := []
  draws := 0

/-- The machine after power-on with the parameters at the spec's defaults (00_scope.md R5). -/
def State.reset : State := State.powerOn

end Sys2Proof.Machine
end

