-- ==== Sys2Proof/Machine/Operands.lean ====
section
/-! DEFINITION. Operand forms: register operands, immediates, addresses (30_encoding.md R83, R85), and the register file's
bulk views (10_state.md R23). -/

namespace Sys2Proof.Machine

/-- V0, the register GotoPlusV0 reads implicitly (10_state.md R20). -/
def v0 : RegIdx := 0

/-- VF, the flag latch (10_state.md R21). -/
def vf : RegIdx := 15

/-- `V[r]` (00_scope.md R7). -/
def State.reg (s : State) (r : RegIdx) : Byte := s.regs[r.val]

/-- `V[r] <- v` (00_scope.md R7). -/
def State.setReg (s : State) (r : RegIdx) (v : Byte) : State := { s with regs := s.regs.set r.val v }

/-- `zext_16` of a 12-bit address field (30_encoding.md R85). -/
def zextAddr (a : Addr12) : Addr := a.setWidth 16

/-- `zext_16` of a register value (42_control_flow.md R122). -/
def zextByte (b : Byte) : Addr := b.setWidth 16

/-- `zext_8` of a key (45_keyboard.md R170). -/
def zextKey (k : Fin 16) : Byte := BitVec.ofNat 8 k.val

/-- The sixteen registers as bytes, V0 first (10_state.md R23). -/
def State.toArray (s : State) : Vector Byte 16 := s.regs

/-- Writes all sixteen registers, V0 first (10_state.md R23); a host facility only. -/
def State.fromArray (s : State) (bytes : Vector Byte 16) : State := { s with regs := bytes }

end Sys2Proof.Machine
end

