-- ==== Sys2Proof/Machine/Flags.lean ====
section
/-! DEFINITION. The two flag computations, carry and borrow, and the flag write (10_state.md R21, 43_register_alu.md R149,
R150, R152). There is no other flag. -/

namespace Sys2Proof.Machine

/-- Carry out of bit 7: the exact sum exceeds 255 (43_register_alu.md R146, R152). -/
def carryOut (a b : Byte) : Bool := decide (a.toNat + b.toNat > 255)

/-- Borrow: the subtrahend is larger (43_register_alu.md R147, R152). -/
def borrowOut (a b : Byte) : Bool := decide (a.toNat < b.toNat)

/-- The byte a flag write stores (43_register_alu.md R152, 92_eei_decisions.md D34). -/
def flagByte (f : Bool) : Byte := if f then 0x01#8 else 0x00#8

/-- The exact sum reduced modulo 256 (43_register_alu.md R150). -/
def wrappedSum (a b : Byte) : Byte := BitVec.ofNat 8 (a.toNat + b.toNat)

/-- The exact difference reduced modulo 256 (43_register_alu.md R147, R150). -/
def wrappedDifference (a b : Byte) : Byte := BitVec.ofInt 8 ((a.toNat : Int) - (b.toNat : Int))

/-- Flag first, result second, so that the result wins when `x` is VF (43_register_alu.md R149). -/
def State.setFlagThenReg (s : State) (flag : Bool) (x : RegIdx) (result : Byte) : State :=
  (s.setReg vf (flagByte flag)).setReg x result

end Sys2Proof.Machine
end

