-- ==== Sys2Proof/Machine/Ops.lean ====
section
/-! DEFINITION. The operations the instructions share: halt entry, the memory bounds checker, fetch, the stack, the
program counter, the arbiter's grant and the two inputs. -/

namespace Sys2Proof.Machine

/-- The code an error latches into `HALT_CAUSE` (60_exceptions.md R200). -/
def CoreError.cause : CoreError → HaltCause
  | .unknownInstruction _ => .unknownInstruction
  | .memoryOutOfBounds _ => .memoryOutOfBounds
  | .registerInvalidIndex _ => .registerInvalidIndex
  | .stackOverflow => .stackOverflow
  | .stackUnderflow => .stackUnderflow
  | .keyboardError => .keyboardError

/-- The value an error latches into `HALT_INFO` (60_exceptions.md R200, 10_state.md R35). -/
def CoreError.info : CoreError → Word
  | .unknownInstruction word => word
  | .memoryOutOfBounds addr => addr
  | .registerInvalidIndex index => index
  | .stackOverflow => 0x0000#16
  | .stackUnderflow => 0x0000#16
  | .keyboardError => 0x0000#16

/-- HALT ENTRY, the hardware's only exception entry (60_exceptions.md R209, 00_scope.md R7): every write already made
stays, the error is latched, and the core stops fetching. There is no return from it: only a reset leaves `Halted`
(60_exceptions.md R212; `State.softReset` below). -/
def State.raise (s : State) (e : CoreError) : State :=
  { s with mode := .halted, haltCause := e.cause, haltInfo := e.info }

/-- Takes the result of an operation that may raise before it writes anything. -/
def State.orRaise (s : State) : Except CoreError State → State
  | .ok s' => s'
  | .error e => s.raise e

/-- The soft reset, the way out of `Halted` and of a wait (70_reset_and_hazards.md R231, 60_exceptions.md R212). -/
def State.softReset (s : State) : State :=
  { s with pc := Config.progBase, sp := 0, mode := .running, haltCause := .noCause, haltInfo := 0x0000#16 }

/-- `mem[a]` (00_scope.md R7). -/
def State.byteAt (s : State) (a : Nat) : Byte := s.mem.read s.params a

/-- `mem[a] <- v`, behind the bounds checker (20_memory.md R51). -/
def State.putByte (s : State) (a : Nat) (v : Byte) : State := { s with mem := s.mem.write s.params a v }

/-- Bytes at rising addresses, behind the bounds checker (the copy of 20_memory.md R64). -/
def State.putBytes (s : State) (a : Nat) : List Byte → State
  | [] => s
  | b :: bs => State.putBytes (s.putByte a b) (a + 1) bs

/-- `MemRead(addr, 1)`: the bounds-checked byte read; the address is exact (20_memory.md R51, R53). -/
def State.getByte (s : State) (addr : Nat) : Except CoreError Byte :=
  if addr < Config.memSize then .ok (s.byteAt addr) else .error (.memoryOutOfBounds (BitVec.ofNat 16 addr))

/-- `MemWrite(addr, 1, v)`: the bounds-checked byte write (20_memory.md R51, R53). -/
def State.setByte (s : State) (addr : Nat) (v : Byte) : Except CoreError State :=
  if addr < Config.memSize then .ok (s.putByte addr v)
  else .error (.memoryOutOfBounds (BitVec.ofNat 16 addr))

/-- `MemRead(addr, 2)`: the bounds-checked word read, most significant byte first (20_memory.md R52, R54). -/
def State.getWord (s : State) (addr : Nat) : Except CoreError Word :=
  if addr + 2 ≤ Config.memSize then .ok (ofBytes (s.byteAt addr) (s.byteAt (addr + 1)))
  else .error (.memoryOutOfBounds (BitVec.ofNat 16 addr))

/-- `MemWrite(addr, 2, v)`: the bounds-checked word write, used by no instruction (20_memory.md R52, R56). -/
def State.setWord (s : State) (addr : Nat) (v : Word) : Except CoreError State :=
  if addr + 2 ≤ Config.memSize then
    .ok ((s.putByte addr (highByte v)).putByte (addr + 1) (lowByte v))
  else .error (.memoryOutOfBounds (BitVec.ofNat 16 addr))

/-- `pc <- target` (00_scope.md R7). -/
def State.setPc (s : State) (target : Addr) : State := { s with pc := target }

/-- `pc <- pc + 2` (10_state.md R26). -/
def State.advancePc (s : State) : State := s.setPc (s.pc + 2#16)

/-- `I <- v` (00_scope.md R7). -/
def State.setIndex (s : State) (v : Addr) : State := { s with i := v }

/-- A skip: a further 2 bytes when its condition holds (42_control_flow.md R125). -/
def State.skipIf (s : State) (cond : Bool) : State := if cond then s.advancePc else s

/-- Fetch: the bounds-checked word at `pc`, and the state with `pc` advanced (40_execute_cycle.md R101). -/
def State.fetch (s : State) : Except CoreError (Word × State) :=
  match s.getWord s.pc.toNat with
  | .ok word => .ok (word, s.advancePc)
  | .error e => .error e

/-- The decode error as the core's error (40_execute_cycle.md R102, 60_exceptions.md R201). -/
def coreErrorOf : DecodeError → CoreError
  | .unknownInstruction word => .unknownInstruction word

/-- `stack[k]` (00_scope.md R7). -/
def State.stackEntry (s : State) (k : Nat) : Addr := s.stack.getD k 0x0000#16

/-- Pushes `pc`, checking the capacity first (42_control_flow.md R123, 10_state.md R29). -/
def State.push (s : State) : Except CoreError State :=
  if s.sp < s.params.stackDepth then .ok { s with stack := s.stack.set s.sp s.pc, sp := s.sp + 1 }
  else .error .stackOverflow

/-- Pops into `pc`, checking for emptiness first; the entry read stays in the array (42_control_flow.md R124,
10_state.md R29). -/
def State.popPc (s : State) : Except CoreError State :=
  if s.sp = 0 then .error .stackUnderflow
  else .ok { s with sp := s.sp - 1, pc := s.stackEntry (s.sp - 1) }

/-- The core takes the framebuffer's grant. A renderer that holds it is waited for, which changes no result
(50_interfaces.md R189, R190; log 10). -/
def State.acquireFb (s : State) : State := { s with fbGrant := .core }

/-- The core gives the grant back. -/
def State.releaseFb (s : State) : State := { s with fbGrant := .nobody }

/-- The framebuffer after a write under the grant. -/
def State.setFb (s : State) (fb : Framebuffer) : State := { s with fb := fb }

/-- The keypad's report at the examination to come: the oldest one supplied, else the free value (45_keyboard.md R173;
log 4). -/
def State.keyReport (s : State) : Config.KeyReport := s.keyInput.headD (Config.keyReport s.keyPolls)

/-- The state after one examination of the keypad. -/
def State.pollKey (s : State) : State := { s with keyInput := s.keyInput.tail, keyPolls := s.keyPolls + 1 }

/-- `draw8()`: the byte of the draw to come, the oldest one supplied, else the free value (00_scope.md R7,
50_interfaces.md R187; log 5). -/
def State.randomByte (s : State) : Byte := s.randInput.headD (Config.randomByte s.draws)

/-- The state after one draw. -/
def State.takeRandom (s : State) : State := { s with randInput := s.randInput.tail, draws := s.draws + 1 }

/-- A step requested while `Halted` changes no state (40_execute_cycle.md R105). -/
def stepHalted (s : State) : Host.Outcome State Fault Refusal := .next s

/-- The outcome a step presents, read from the state it ends in (40_execute_cycle.md R104, 50_interfaces.md R191;
log 12). -/
def State.outcome (s : State) : StepOutcome :=
  match s.mode with
  | .running => .done
  | .waitingForKey => .suspended
  | .halted => .halt s.haltCause s.haltInfo

end Sys2Proof.Machine
end

