-- ==== Sys2Proof/Machine/ControlFlow.lean ====
section
/-! DEFINITION. Call, Goto, GotoPlusV0, CallSubroutine, Return and the three skips (42_control_flow.md). `pc` already
holds the address of the instruction plus 2. -/

namespace Sys2Proof.Machine

/-- Call: a no-operation; its address is unused (42_control_flow.md R120). -/
def execCall (_addr : Addr12) (s : State) : Host.Outcome State Fault Refusal := .next s

/-- Goto (42_control_flow.md R121). -/
def execGoto (addr : Addr12) (s : State) : Host.Outcome State Fault Refusal := .next (s.setPc (zextAddr addr))

/-- GotoPlusV0: the sum is exact, at most 0x10FE (42_control_flow.md R122). -/
def execGotoPlusV0 (addr : Addr12) (s : State) : Host.Outcome State Fault Refusal :=
  .next (s.setPc (zextAddr addr + zextByte (s.reg v0)))

/-- CallSubroutine (42_control_flow.md R123, 60_exceptions.md R204). -/
def execCallSubroutine (addr : Addr12) (s : State) : Host.Outcome State Fault Refusal :=
  .next (s.orRaise (s.push.map fun pushed => pushed.setPc (zextAddr addr)))

/-- Return (42_control_flow.md R124, 60_exceptions.md R205). -/
def execRet (s : State) : Host.Outcome State Fault Refusal := .next (s.orRaise s.popPc)

/-- SkipIfRegisterEquals (42_control_flow.md R125). -/
def execSkipIfRegisterEquals (x : RegIdx) (imm8 : Byte) (s : State) : Host.Outcome State Fault Refusal :=
  .next (s.skipIf (s.reg x == imm8))

/-- SkipIfRegisterNotEquals (42_control_flow.md R126). -/
def execSkipIfRegisterNotEquals (x : RegIdx) (imm8 : Byte) (s : State) : Host.Outcome State Fault Refusal :=
  .next (s.skipIf (s.reg x != imm8))

/-- SkipIfRegistersEqual (42_control_flow.md R127). -/
def execSkipIfRegistersEqual (x y : RegIdx) (s : State) : Host.Outcome State Fault Refusal :=
  .next (s.skipIf (s.reg x == s.reg y))

end Sys2Proof.Machine
end

