-- ==== Sys2Proof/Machine/Display.lean ====
section
/-! DEFINITION. ClearDisplay and Draw (41_display.md). -/

namespace Sys2Proof.Machine

/-- ClearDisplay (41_display.md R110). -/
def execClearDisplay (s : State) : Host.Outcome State Fault Refusal :=
  .next ((s.acquireFb.setFb Framebuffer.clear).releaseFb)

/-- The row loop of Draw: `rows` rows from sprite row `row` on, each row's byte read just before its cells are written,
so that a refused read keeps the rows already drawn (41_display.md R111, R114). -/
def State.drawRows (x0 y0 : Nat) : Nat → Nat → State → State
  | 0, _, s => s
  | rows + 1, row, s =>
    match s.getByte (s.i.toNat + row) with
    | .error e => s.raise e
    | .ok b => State.drawRows x0 y0 rows (row + 1) (s.setFb (s.fb.drawByte s.params.drawOffscreen b x0 (y0 + row)))

/-- Draw (41_display.md R111 to R115). -/
def execDraw (x y : RegIdx) (n : Fin 16) (s : State) : Host.Outcome State Fault Refusal :=
  .next (State.drawRows (s.reg x).toNat (s.reg y).toNat n.val 0 s.acquireFb).releaseFb

end Sys2Proof.Machine
end

