-- ==== Sys2Proof/Machine/IndexMemory.lean ====
section
/-! DEFINITION. SetI and DumpRegisters (44_index_memory.md). -/

namespace Sys2Proof.Machine

/-- SetI (44_index_memory.md R160). -/
def execSetI (addr : Addr12) (s : State) : Host.Outcome State Fault Refusal := .next (s.setIndex (zextAddr addr))

/-- Stores bytes one at a time at `I`, advancing `I` after each completed write; a refused write keeps what was stored
(44_index_memory.md R161, R162). -/
def State.dumpBytes : List Byte → State → State
  | [], s => s
  | b :: bs, s =>
    match s.setByte s.i.toNat b with
    | .error e => s.raise e
    | .ok stored => State.dumpBytes bs (stored.setIndex (stored.i + 1#16))

/-- DumpRegisters: V0 to V[x], in index order (44_index_memory.md R161, R162; 10_state.md R23). -/
def execDumpRegisters (x : RegIdx) (s : State) : Host.Outcome State Fault Refusal :=
  .next (State.dumpBytes (s.toArray.toList.take (x.val + 1)) s)

end Sys2Proof.Machine
end

