-- ==== Sys2Proof/Machine/Keypad.lean ====
section
/-! DEFINITION. GetKey and the step of a waiting core (45_keyboard.md). -/

namespace Sys2Proof.Machine

/-- GetKey's first examination of the keypad (45_keyboard.md R170, 60_exceptions.md R206). -/
def State.startGetKey (s : State) (x : RegIdx) : State :=
  match s.keyReport with
  | .key k => s.pollKey.setReg x (zextKey k)
  | .failure => s.pollKey.raise .keyboardError
  | .noKey => { s.pollKey with keyDest := x, mode := .waitingForKey }

/-- GetKey (45_keyboard.md R170). -/
def execGetKey (x : RegIdx) (s : State) : Host.Outcome State Fault Refusal := .next (s.startGetKey x)

/-- A waiting GetKey examines the keypad again (45_keyboard.md R171). -/
def State.resumeGetKey (s : State) : State :=
  match s.keyReport with
  | .key k => { s.pollKey.setReg s.keyDest (zextKey k) with mode := .running }
  | .failure => s.pollKey.raise .keyboardError
  | .noKey => s.pollKey

/-- A step requested while `WaitingForKey`: no fetch, no decode (40_execute_cycle.md R106). -/
def stepWaiting (s : State) : Host.Outcome State Fault Refusal := .next s.resumeGetKey

end Sys2Proof.Machine
end

