-- ==== Sys2Proof/Machine/RegisterAlu.lean ====
section
/-! DEFINITION. The register and ALU instructions (43_register_alu.md). Every source is read before any register is
written (R151). -/

namespace Sys2Proof.Machine

/-- SetRegister (43_register_alu.md R140). -/
def execSetRegister (x : RegIdx) (imm8 : Byte) (s : State) : Host.Outcome State Fault Refusal :=
  .next (s.setReg x imm8)

/-- AddToRegister: wraps, no flag (43_register_alu.md R141). -/
def execAddToRegister (x : RegIdx) (imm8 : Byte) (s : State) : Host.Outcome State Fault Refusal :=
  .next (s.setReg x (wrappedSum (s.reg x) imm8))

/-- CopyRegister (43_register_alu.md R142). -/
def execCopyRegister (x y : RegIdx) (s : State) : Host.Outcome State Fault Refusal :=
  .next (s.setReg x (s.reg y))

/-- Or (43_register_alu.md R143). -/
def execOr (x y : RegIdx) (s : State) : Host.Outcome State Fault Refusal :=
  .next (s.setReg x (s.reg x ||| s.reg y))

/-- And (43_register_alu.md R144). -/
def execAnd (x y : RegIdx) (s : State) : Host.Outcome State Fault Refusal :=
  .next (s.setReg x (s.reg x &&& s.reg y))

/-- Xor (43_register_alu.md R145). -/
def execXor (x y : RegIdx) (s : State) : Host.Outcome State Fault Refusal :=
  .next (s.setReg x (s.reg x ^^^ s.reg y))

/-- AddRegisters (43_register_alu.md R146, R149). -/
def execAddRegisters (x y : RegIdx) (s : State) : Host.Outcome State Fault Refusal :=
  .next (s.setFlagThenReg (carryOut (s.reg x) (s.reg y)) x (wrappedSum (s.reg x) (s.reg y)))

/-- SubtractRegisters: VF is 1 on borrow (43_register_alu.md R147, R149). -/
def execSubtractRegisters (x y : RegIdx) (s : State) : Host.Outcome State Fault Refusal :=
  .next (s.setFlagThenReg (borrowOut (s.reg x) (s.reg y)) x (wrappedDifference (s.reg x) (s.reg y)))

/-- SetRegisterRandomAnd: the byte is an input of the step (43_register_alu.md R148, 50_interfaces.md R187). -/
def execSetRegisterRandomAnd (x : RegIdx) (imm8 : Byte) (s : State) : Host.Outcome State Fault Refusal :=
  .next (s.takeRandom.setReg x (s.randomByte &&& imm8))

end Sys2Proof.Machine
end

