-- ==== Sys2Proof/Machine/Dispatch.lean ====
section
/-! DEFINITION. The execute phase: one meaning per instruction (40_execute_cycle.md R103, 30_encoding.md R87). -/

namespace Sys2Proof.Machine

/-- Dispatch on the instruction variant. -/
def exec (i : Instr) (s : State) : Host.Outcome State Fault Refusal :=
  match i with
  | .clearDisplay => Sys2Proof.Machine.execClearDisplay s
  | .ret => Sys2Proof.Machine.execRet s
  | .call addr => Sys2Proof.Machine.execCall addr s
  | .goto addr => Sys2Proof.Machine.execGoto addr s
  | .callSubroutine addr => Sys2Proof.Machine.execCallSubroutine addr s
  | .skipIfRegisterEquals x imm8 => Sys2Proof.Machine.execSkipIfRegisterEquals x imm8 s
  | .skipIfRegisterNotEquals x imm8 => Sys2Proof.Machine.execSkipIfRegisterNotEquals x imm8 s
  | .skipIfRegistersEqual x y => Sys2Proof.Machine.execSkipIfRegistersEqual x y s
  | .setRegister x imm8 => Sys2Proof.Machine.execSetRegister x imm8 s
  | .addToRegister x imm8 => Sys2Proof.Machine.execAddToRegister x imm8 s
  | .copyRegister x y => Sys2Proof.Machine.execCopyRegister x y s
  | .or x y => Sys2Proof.Machine.execOr x y s
  | .and x y => Sys2Proof.Machine.execAnd x y s
  | .xor x y => Sys2Proof.Machine.execXor x y s
  | .addRegisters x y => Sys2Proof.Machine.execAddRegisters x y s
  | .subtractRegisters x y => Sys2Proof.Machine.execSubtractRegisters x y s
  | .setI addr => Sys2Proof.Machine.execSetI addr s
  | .gotoPlusV0 addr => Sys2Proof.Machine.execGotoPlusV0 addr s
  | .setRegisterRandomAnd x imm8 => Sys2Proof.Machine.execSetRegisterRandomAnd x imm8 s
  | .draw x y n => Sys2Proof.Machine.execDraw x y n s
  | .dumpRegisters x => Sys2Proof.Machine.execDumpRegisters x s
  | .getKey x => Sys2Proof.Machine.execGetKey x s

end Sys2Proof.Machine
end

