-- ==== Sys2Proof/Machine/Step.lean ====
section
/-! DEFINITION. The step, the core's one operation (40_execute_cycle.md R100 to R106). -/

namespace Sys2Proof.Machine

/-- Fetch, decode and execute when Running; re-examine the keypad when WaitingForKey; nothing when Halted
(40_execute_cycle.md R100). -/
def step (s : State) : Host.Outcome State Fault Refusal :=
  match s.mode with
  | .halted => stepHalted s
  | .waitingForKey => stepWaiting s
  | .running =>
    match s.fetch with
    | .error e => .next (s.raise e)
    | .ok (word, fetched) =>
      match decode word with
      | .error e => .next (fetched.raise (coreErrorOf e))
      | .ok i => exec i fetched

/-- The address `withFetchWord` stores at: `pc`, or the program base where no word can be fetched from `pc`. -/
def State.fetchBase (s : State) : Addr := if s.pc.toNat + 2 ≤ Config.memSize then s.pc else Config.progBase

/-- `s` with the table word `w` stored where the next step fetches, and Running so that it does fetch (log 13). -/
def State.withFetchWord (s : State) (nbits w : Nat) : State :=
  { (s.putByte s.fetchBase.toNat (highByte (tableWord nbits w))).putByte (s.fetchBase.toNat + 1)
      (lowByte (tableWord nbits w)) with
    pc := s.fetchBase
    mode := .running
    haltCause := .noCause
    haltInfo := 0x0000#16 }

end Sys2Proof.Machine
end

