-- ==== Sys2Proof/Machine/HostPort.lean ====
section
/-! DEFINITION. What the outside may do between steps: bulk load, register test port, status port, renderer
(50_interfaces.md; 20_memory.md R64). The resets are `State.reset` and `State.softReset`. -/

namespace Sys2Proof.Machine

/-- `load(offset, bytes)`: all or nothing, and no change of `MODE` (20_memory.md R64). -/
def State.load (s : State) (offset : Addr) (bytes : List Byte) : Except CoreError State :=
  if offset.toNat + bytes.length ≤ Config.memSize then
    .ok (s.putBytes offset.toNat bytes)
  else .error (.memoryOutOfBounds offset)

/-- ROM loading: `load(0x200, rom)` (50_interfaces.md R183). -/
def State.loadRom (s : State) (rom : List Byte) : Except CoreError State := s.load Config.progBase rom

/-- Register test port, read; the port's index is wider than 4 bits (50_interfaces.md R193, 10_state.md R22; log 14). -/
def State.portGet (s : State) (index : Word) : Except CoreError Byte :=
  if h : index.toNat < 16 then .ok (s.reg ⟨index.toNat, h⟩) else .error (.registerInvalidIndex index)

/-- Register test port, write (50_interfaces.md R193). -/
def State.portSet (s : State) (index : Word) (v : Byte) : Except CoreError State :=
  if h : index.toNat < 16 then .ok (s.setReg ⟨index.toNat, h⟩ v) else .error (.registerInvalidIndex index)

/-- Encoding of `MODE` (10_state.md R33). -/
def Mode.code : Mode → BitVec 2
  | .running => 0#2
  | .waitingForKey => 1#2
  | .halted => 2#2

/-- Encoding of `HALT_CAUSE` (60_exceptions.md R200). -/
def HaltCause.code : HaltCause → BitVec 3
  | .noCause => 0#3
  | .unknownInstruction => 1#3
  | .memoryOutOfBounds => 2#3
  | .registerInvalidIndex => 3#3
  | .stackOverflow => 4#3
  | .stackUnderflow => 5#3
  | .keyboardError => 6#3

/-- Encoding of the outcome (50_interfaces.md R192). -/
def StepOutcome.code : StepOutcome → BitVec 2
  | .done => 0#2
  | .suspended => 1#2
  | .halt _ _ => 2#2

/-- The status port (50_interfaces.md R191, R192). -/
structure Status where
  outcome : BitVec 2
  mode : BitVec 2
  haltCause : BitVec 3
  haltInfo : Word
  pcOut : Addr
  spOut : BitVec 5
deriving DecidableEq, Repr

/-- What the core presents after a step that ended in `s`. -/
def State.status (s : State) : Status where
  outcome := s.outcome.code
  mode := s.mode.code
  haltCause := s.haltCause.code
  haltInfo := s.haltInfo
  pcOut := s.pc
  spOut := BitVec.ofNat 5 s.sp

/-- The renderer asks for the framebuffer: granted when nobody holds it (50_interfaces.md R189). -/
def State.rendererRequest (s : State) : Option State :=
  match s.fbGrant with
  | .nobody => some { s with fbGrant := .renderer }
  | .core => none
  | .renderer => none

/-- The renderer ends its pass (50_interfaces.md R190). -/
def State.rendererRelease (s : State) : State :=
  match s.fbGrant with
  | .renderer => { s with fbGrant := .nobody }
  | .core => s
  | .nobody => s

/-- The snapshot the renderer reads while it holds the grant: element `y * 64 + x` is cell `(x, y)`
(50_interfaces.md R188). -/
def State.snapshot (s : State) : Vector Bool 2048 := Vector.ofFn fun k => s.fb.getLsbD k.val

end Sys2Proof.Machine
end

