-- ==== Sys2Proof/Safety.lean ====
section
/-! DEFINITION. The terms claims use: the parts of the state and what an instruction may write, the machine's invariant,
and what a safe run is. -/

namespace Sys2Proof.Machine

/-- The parts of the state a frame speaks of. -/
inductive Part where
  /-- The parameters the machine was built with. -/
  | params
  /-- `V[0]` .. `V[15]`. -/
  | regs
  /-- `I`. -/
  | index
  | pc
  /-- `sp` and the stack's entries. -/
  | stack
  /-- Every byte of memory. -/
  | mem
  /-- The framebuffer's cells. -/
  | fb
  /-- The framebuffer's grant. -/
  | grant
  /-- `MODE`, `HALT_CAUSE`, `HALT_INFO`, `KEY_DEST`. -/
  | run
  /-- The keypad input and its counter. -/
  | keypad
  /-- The random input and its counter. -/
  | random
deriving DecidableEq, Repr

/-- The part holds the same in both states. -/
def Part.Same : Part → State → State → Prop
  | .params, s, t => t.params = s.params
  | .regs, s, t => ∀ r : RegIdx, t.reg r = s.reg r
  | .index, s, t => t.i = s.i
  | .pc, s, t => t.pc = s.pc
  | .stack, s, t => t.sp = s.sp ∧ t.stack = s.stack
  | .mem, s, t => ∀ a : Nat, t.byteAt a = s.byteAt a
  | .fb, s, t => t.fb = s.fb
  | .grant, s, t => t.fbGrant = s.fbGrant
  | .run, s, t => t.mode = s.mode ∧ t.haltCause = s.haltCause ∧ t.haltInfo = s.haltInfo ∧ t.keyDest = s.keyDest
  | .keypad, s, t => t.keyInput = s.keyInput ∧ t.keyPolls = s.keyPolls
  | .random, s, t => t.randInput = s.randInput ∧ t.draws = s.draws

/-- Everything outside the listed parts is unchanged. -/
def SameExcept (parts : List Part) (s t : State) : Prop := ∀ p : Part, p ∉ parts → p.Same s t

/-- The parts an instruction's execute phase may write: the write columns of 10_state.md R39, with the halt record for
the instructions that can raise an error (60_exceptions.md R207), the mode for GetKey, and the inputs consumed. -/
def partsWrittenBy : Instr → List Part
  | .clearDisplay => [.fb, .grant]
  | .ret => [.pc, .stack, .run]
  | .call _ => []
  | .goto _ => [.pc]
  | .callSubroutine _ => [.pc, .stack, .run]
  | .skipIfRegisterEquals _ _ => [.pc]
  | .skipIfRegisterNotEquals _ _ => [.pc]
  | .skipIfRegistersEqual _ _ => [.pc]
  | .setRegister _ _ => [.regs]
  | .addToRegister _ _ => [.regs]
  | .copyRegister _ _ => [.regs]
  | .or _ _ => [.regs]
  | .and _ _ => [.regs]
  | .xor _ _ => [.regs]
  | .addRegisters _ _ => [.regs]
  | .subtractRegisters _ _ => [.regs]
  | .setI _ => [.index]
  | .gotoPlusV0 _ => [.pc]
  | .setRegisterRandomAnd _ _ => [.regs, .random]
  | .draw _ _ _ => [.fb, .grant, .run]
  | .dumpRegisters _ => [.index, .mem, .run]
  | .getKey _ => [.regs, .run, .keypad]

/-- The general registers an instruction's execute phase may write (10_state.md R39: the columns `V` and "VF as flag"). -/
def regsWrittenBy : Instr → List RegIdx
  | .clearDisplay => []
  | .ret => []
  | .call _ => []
  | .goto _ => []
  | .callSubroutine _ => []
  | .skipIfRegisterEquals _ _ => []
  | .skipIfRegisterNotEquals _ _ => []
  | .skipIfRegistersEqual _ _ => []
  | .setRegister x _ => [x]
  | .addToRegister x _ => [x]
  | .copyRegister x _ => [x]
  | .or x _ => [x]
  | .and x _ => [x]
  | .xor x _ => [x]
  | .addRegisters x _ => [x, vf]
  | .subtractRegisters x _ => [x, vf]
  | .setI _ => []
  | .gotoPlusV0 _ => []
  | .setRegisterRandomAnd x _ => [x]
  | .draw _ _ _ => []
  | .dumpRegisters _ => []
  | .getKey x => [x]

/-- When the execute phase of an instruction raises an error, and which (60_exceptions.md R207 with the conditions of
42_control_flow.md R123, R124, 41_display.md R114, 44_index_memory.md R162 and 45_keyboard.md R170). -/
def errorRaisedBy : Instr → State → Option CoreError
  | .clearDisplay, _ => none
  | .ret, s => if s.sp = 0 then some .stackUnderflow else none
  | .call _, _ => none
  | .goto _, _ => none
  | .callSubroutine _, s => if s.params.stackDepth ≤ s.sp then some .stackOverflow else none
  | .skipIfRegisterEquals _ _, _ => none
  | .skipIfRegisterNotEquals _ _, _ => none
  | .skipIfRegistersEqual _ _, _ => none
  | .setRegister _ _, _ => none
  | .addToRegister _ _, _ => none
  | .copyRegister _ _, _ => none
  | .or _ _, _ => none
  | .and _ _, _ => none
  | .xor _ _, _ => none
  | .addRegisters _ _, _ => none
  | .subtractRegisters _ _, _ => none
  | .setI _, _ => none
  | .gotoPlusV0 _, _ => none
  | .setRegisterRandomAnd _ _, _ => none
  | .draw _ _ n, s =>
    if n.val ≠ 0 ∧ Config.memSize < s.i.toNat + n.val then
      some (.memoryOutOfBounds (BitVec.ofNat 16 (max s.i.toNat Config.memSize))) else none
  | .dumpRegisters x, s =>
    if Config.memSize < s.i.toNat + (x.val + 1) then
      some (.memoryOutOfBounds (BitVec.ofNat 16 (max s.i.toNat Config.memSize))) else none
  | .getKey _, s => if s.keyReport = .failure then some .keyboardError else none

/-- The error a step of a Running core raises, in the order of 60_exceptions.md R208: fetch, decode, execute. -/
def State.stepRaises (s : State) : Option CoreError :=
  match s.fetch with
  | .error e => some e
  | .ok (word, fetched) =>
    match decode word with
    | .error e => some (coreErrorOf e)
    | .ok i => errorRaisedBy i fetched

/-- Nothing an instruction or a fetch can raise has the cause of the register test port (10_state.md R22). -/
def HaltCause.fromStep (c : HaltCause) : Prop := c ≠ .registerInvalidIndex

/-- The word a Running core fetches next (40_execute_cycle.md R101). -/
def State.wordAtPc (s : State) : Word := ofBytes (s.byteAt s.pc.toNat) (s.byteAt (s.pc.toNat + 1))

/-- The core is Running and the fetch at `pc` is in bounds. -/
def State.CanFetch (s : State) : Prop := s.mode = .running ∧ s.pc.toNat + 2 ≤ Config.memSize

/-- `t` is halted with the error `e` latched; nothing else of the run state differs from `s` (60_exceptions.md R209). -/
def HaltedWith (e : CoreError) (s t : State) : Prop :=
  t.mode = .halted ∧ t.haltCause = e.cause ∧ t.haltInfo = e.info ∧ t.keyDest = s.keyDest

/-- The stack has the shape its parameter gives it: `STACK_DEPTH` entries, at most so many of them live (10_state.md R28,
R29). -/
def State.StackShaped (s : State) : Prop := s.stack.length = s.params.stackDepth ∧ s.sp ≤ s.params.stackDepth

/-- THE INVARIANT (10_state.md R41, with what its inductive proof needs and the model's canonical memory): legal
parameters; the stack's shape; the bounds of `I`, of `pc` and of every live stack entry; the halt record and `MODE` agree
(R34, R35); no step leaves the grant with the core. The bound of the framebuffer's cells is in their type. -/
structure State.Inv (s : State) : Prop where
  paramsLegal : s.params.Legal
  memCanonical : s.mem.wf s.params = true
  indexBound : s.i.toNat ≤ 0x1000
  pcBound : s.pc.toNat ≤ 0x10FE
  stackShaped : s.StackShaped
  stackBound : ∀ k, k < s.sp → (s.stackEntry k).toNat ≤ 0x1000
  haltedIff : s.mode = .halted ↔ s.haltCause ≠ .noCause
  noInfo : s.mode ≠ .halted → s.haltInfo = 0x0000#16
  causeFromStep : s.haltCause.fromStep
  grantFree : s.fbGrant ≠ .core

/-- A run of `k` steps that never halts the core. A waiting core is not halted, and it is not at an end either
(70_reset_and_hazards.md R240). -/
def SafeRun (k : Nat) (s : State) : Prop :=
  ∀ j ≤ k, ∃ t, Sys2Proof.core.run j s = .next t ∧ t.mode ≠ .halted

end Sys2Proof.Machine
end

