-- ==== Sys2Proof/Certificates/Slice0/Obligations.lean ====
section
/-! DEFINITION. The statements for the provers. Each is about every state and every operand; each completion names what
the instruction writes and, by `SameExcept`, that nothing else changes. In `exec`, `pc` already holds the address of the
instruction plus 2 (40_execute_cycle.md R101). Where a clause rests on a decision the spec marks as its own, the
docstring names it. -/

open Sys2Proof Sys2Proof.Machine

/-! ### Encoding -/

/-- Words of 95_test_vectors.md section 2.1 decode to what the table says. -/
def Obligations.SampleWordsDecode : Prop :=
  decode 0x00E0#16 = .ok .clearDisplay ∧ decode 0x00EE#16 = .ok .ret ∧ decode 0x00E1#16 = .ok (.call 0x0E1#12) ∧
  decode 0x2400#16 = .ok (.callSubroutine 0x400#12) ∧ decode 0x3A7F#16 = .ok (.skipIfRegisterEquals 0xA 0x7F#8) ∧
  decode 0x62FE#16 = .ok (.setRegister 0x2 0xFE#8) ∧ decode 0x8125#16 = .ok (.subtractRegisters 0x1 0x2) ∧
  decode 0xA234#16 = .ok (.setI 0x234#12) ∧ decode 0xDAB5#16 = .ok (.draw 0xA 0xB 0x5) ∧
  decode 0xF155#16 = .ok (.dumpRegisters 0x1) ∧ decode 0xF30A#16 = .ok (.getKey 0x3) ∧
  decode 0xF000#16 = .error (.unknownInstruction 0xF000#16) ∧ decode 0x5121#16 = .error (.unknownInstruction 0x5121#16)

/-- Decoding the encoding of any well-formed instruction gives it back, with every operand (30_encoding.md sections 2, 3). -/
def Obligations.DecodeOfEncode : Prop := ∀ i : Instr, i.WellFormed → decode (encode i) = .ok i

/-- Whatever decodes is well-formed and is the encoding of what it decodes to: no two words mean one instruction. -/
def Obligations.EncodeOfDecode : Prop :=
  ∀ (w : Word) (i : Instr), decode w = .ok i → i.WellFormed ∧ encode i = w

/-- 30_encoding.md R86: a word decodes to an instruction of the first row of the mask and match table that matches it, and
every word some row matches decodes; a word no row matches fails with the raw word; Call is every word up to 0x0FFF but
two; the other rows exclude each other. -/
def Obligations.FirstMatchingRowSelects : Prop :=
  ∀ w : Word,
    (∀ i : Instr, decode w = .ok i → opcodeRows.find? (fun r => r.matchesWord w) = some i.row) ∧
    (∀ r : TableRow, opcodeRows.find? (fun r => r.matchesWord w) = some r → ∃ i, decode w = .ok i ∧ i.row = r) ∧
    (opcodeRows.find? (fun r => r.matchesWord w) = none → decode w = .error (.unknownInstruction w)) ∧
    ((∃ addr, decode w = .ok (.call addr)) ↔ w.toNat ≤ 0x0FFF ∧ w ≠ 0x00E0#16 ∧ w ≠ 0x00EE#16) ∧
    (∀ r₁ ∈ opcodeRows, ∀ r₂ ∈ opcodeRows, r₁ ≠ r₂ → r₁.matchesWord w = true → r₂.matchesWord w = true →
      w = 0x00E0#16 ∨ w = 0x00EE#16)

/-- The illegal words, class by class; the list is the spec's own inference from its table (30_encoding.md, the table of
illegal words, marked derived). -/
def Obligations.IllegalWordsByClass : Prop :=
  ∀ w : Word, (∃ e, decode w = .error e) ↔
    (nib0 w = 0x5#4 ∧ nib3 w ≠ 0x0#4) ∨ (nib0 w = 0x8#4 ∧ 0x5#4 < nib3 w) ∨ nib0 w = 0x9#4 ∨ nib0 w = 0xE#4 ∨
    (nib0 w = 0xF#4 ∧ ¬(nib2 w = 0x5#4 ∧ nib3 w = 0x5#4) ∧ ¬(nib2 w = 0x0#4 ∧ nib3 w = 0xA#4))

/-! ### The step -/

/-- A step of a Running core whose word at `pc` decodes is the execute phase of that instruction, with `pc` advanced by 2
before it (40_execute_cycle.md sections on fetch, decode and execute). -/
def Obligations.StepRunsDecodedInstruction : Prop :=
  ∀ (s : State) (i : Instr), s.CanFetch → decode s.wordAtPc = .ok i →
    step s = exec i { s with pc := s.pc + 2#16 }

/-- A step never faults and is never refused: it answers a next state from every state. -/
def Obligations.EveryStepAnswersNext : Prop := ∀ s : State, ∃ t, step s = .next t

/-- A Running core whose `pc` is above 0x0FFE halts with MemoryOutOfBounds carrying `pc`, and nothing else changes, `pc`
included (the spec's decisions D2, D9, D27). -/
def Obligations.UnfetchableProgramCounterHalts : Prop :=
  ∀ s : State, s.mode = .running → 0x0FFE < s.pc.toNat →
    ∃ t, step s = .next t ∧ HaltedWith (.memoryOutOfBounds s.pc) s t ∧ SameExcept [.run] s t ∧
      t.outcome = .halt .memoryOutOfBounds s.pc

/-- 60_exceptions.md R201: a fetched word no row matches halts the core with the raw word, `pc` past it, nothing else
changed. -/
def Obligations.IllegalWordHaltsWithRawWord : Prop :=
  ∀ s : State, s.CanFetch → opcodeRows.find? (fun r => r.matchesWord s.wordAtPc) = none →
    ∃ t, step s = .next t ∧ HaltedWith (.unknownInstruction s.wordAtPc) s t ∧ t.haltInfo = s.wordAtPc ∧
      t.pc = s.pc + 2#16 ∧ SameExcept [.run, .pc] s t

/-- A step of a halted core changes no state and presents the latched error again (the spec's decision D21). -/
def Obligations.HaltedStepChangesNothing : Prop :=
  ∀ s : State, s.mode = .halted → step s = .next s ∧ s.outcome = .halt s.haltCause s.haltInfo

/-- A step of a waiting core reads neither `pc` nor memory nor the random source: whatever they hold, it does the same and
leaves them as they are (the spec's decision D19). -/
def Obligations.WaitingStepReadsOnlyKeypad : Prop :=
  ∀ (s t : State) (m : Memory) (p j : Addr) (bytes : List Byte) (d : Nat), s.mode = .waitingForKey → step s = .next t →
    step { s with mem := m, pc := p, i := j, randInput := bytes, draws := d } =
      .next { t with mem := m, pc := p, i := j, randInput := bytes, draws := d }

/-- A Running core's step halts exactly when its fetch, its decode or its instruction raises an error, in that order, and
the error raised first is the one latched (60_exceptions.md on which instruction raises which error and on priority, both
marked derived there). -/
def Obligations.StepHaltsExactlyOnErrors : Prop :=
  ∀ s : State, s.mode = .running → ∃ t, step s = .next t ∧ (t.mode = .halted ↔ s.stepRaises ≠ none) ∧
    ∀ e, s.stepRaises = some e → HaltedWith e s t

/-- When a Running core's step halts, `pc` is the address after the failing instruction, or the address that could not be
fetched (60_exceptions.md on precision, marked derived there). -/
def Obligations.HaltedProgramCounterLocatesFailure : Prop :=
  ∀ s t : State, s.mode = .running → step s = .next t → t.mode = .halted →
    t.pc = if s.pc.toNat + 2 ≤ Config.memSize then s.pc + 2#16 else s.pc

/-- Only a GetKey that finds no key puts a Running core into the wait, with its register remembered and `pc` past it
(10_state.md on MODE; the wait as a mode is the spec's decision D19). -/
def Obligations.OnlyGetKeyEntersWait : Prop :=
  ∀ s t : State, s.mode = .running → step s = .next t → t.mode = .waitingForKey →
    ∃ x, decode s.wordAtPc = .ok (.getKey x) ∧ s.keyReport = .noKey ∧ t.keyDest = x ∧ t.pc = s.pc + 2#16

/-! ### Invariant and frames -/

/-- The state after power-on meets the invariant, with the default parameters and with any other legal ones. -/
def Obligations.ResetMeetsBounds : Prop := State.reset.Inv ∧ ∀ p : Params, p.Legal → (State.powerOn p).Inv

/-- Every step keeps the invariant: legal parameters, canonical memory, the stack's shape, the bounds of `I`, `pc` and live
stack entries, the agreement of MODE with the halt record, and a free grant (10_state.md, its list of invariants, marked
derived there). -/
def Obligations.StepKeepsBounds : Prop := ∀ s t : State, s.Inv → step s = .next t → t.Inv

/-- In a state that meets the invariant, whatever the legal parameters: `pc` fits in `PC_W` bits and every live stack entry
in `STACK_W` (the spec's decisions D1 and D4), `sp` in the 5 bits of 10_state.md R29, and `I`, a 16-bit register, in 13 of
them (the bound of R24, marked derived there). The clause on `sp` holds by the model's bound of 31 on `STACK_DEPTH`, which
log 1 deduces from those same 5 bits. -/
def Obligations.RegistersFitTheirWidths : Prop :=
  ∀ s : State, s.Inv →
    s.pc.toNat < 2 ^ s.params.pcW ∧ (∀ k, k < s.sp → (s.stackEntry k).toNat < 2 ^ s.params.stackW) ∧ s.sp < 2 ^ 5 ∧
    s.i.toNat < 2 ^ 13

/-- No step, no host operation and no reset but power-on changes the parameters the machine was built with (00_scope.md on
parameters; that State carries them is the model's, log 1). -/
def Obligations.ParametersNeverChange : Prop :=
  ∀ s : State,
    (∀ t, step s = .next t → t.params = s.params) ∧
    (∀ (offset : Addr) (bytes : List Byte) (t : State), s.load offset bytes = .ok t → t.params = s.params) ∧
    s.softReset.params = s.params ∧
    (∀ (index : Word) (v : Byte) (t : State), s.portSet index v = .ok t → t.params = s.params) ∧
    (∀ bytes, (s.fromArray bytes).params = s.params) ∧
    (∀ t : State, s.rendererRequest = some t → t.params = s.params) ∧ s.rendererRelease.params = s.params

/-- What the host may do between steps keeps the invariant too: a load that is accepted, the soft reset, a register port
write, the renderer's request and release. -/
def Obligations.HostOperationsKeepBounds : Prop :=
  ∀ s : State, s.Inv →
    (∀ (offset : Addr) (bytes : List Byte) (t : State), s.load offset bytes = .ok t → t.Inv) ∧
    s.softReset.Inv ∧
    (∀ (index : Word) (v : Byte) (t : State), s.portSet index v = .ok t → t.Inv) ∧
    (∀ t : State, s.rendererRequest = some t → t.Inv) ∧ s.rendererRelease.Inv

/-- The access matrix (10_state.md, marked derived there): the execute phase of an instruction writes only the parts and
only the registers listed for it. In particular VF changes only in AddRegisters, SubtractRegisters and where it is the
named destination. -/
def Obligations.InstructionsWriteOnlyTheirParts : Prop :=
  ∀ (i : Instr) (s t : State), exec i s = .next t →
    SameExcept (partsWrittenBy i) s t ∧ ∀ r, r ∉ regsWrittenBy i → t.reg r = s.reg r

/-- Only GetKey reads the keypad and only SetRegisterRandomAnd the random source: any other instruction does the same
whatever they hold (50_interfaces.md on the two ports; the free random byte is the spec's decision D16). -/
def Obligations.InputsReadOnlyByTheirInstruction : Prop :=
  ∀ (i : Instr) (s t : State), exec i s = .next t →
    ((∀ x, i ≠ .getKey x) → ∀ (reports : List Config.KeyReport) (n : Nat),
      exec i { s with keyInput := reports, keyPolls := n } = .next { t with keyInput := reports, keyPolls := n }) ∧
    ((∀ x imm8, i ≠ .setRegisterRandomAnd x imm8) → ∀ (bytes : List Byte) (n : Nat),
      exec i { s with randInput := bytes, draws := n } = .next { t with randInput := bytes, draws := n })

/-! ### Display -/

/-- ClearDisplay, from every state; that it completes while the renderer holds the grant, and leaves nobody holding it, is
the model's choice (log 10). -/
def Obligations.ClearDisplayClearsEveryCell : Prop :=
  decode 0x00E0#16 = .ok .clearDisplay ∧
  ∀ s : State, ∃ t, exec .clearDisplay s = .next t ∧ (∀ x y, t.fb.cell x y = false) ∧ t.fbGrant = .nobody ∧
    SameExcept [.fb, .grant] s t

/-- Draw whose bytes are all in memory overwrites the 8-by-n window at (V[x], V[y]), clipped to the screen, with the
sprite's bits, most significant leftmost; every other cell, VF and `I` are unchanged (bit order, exact coordinates and
clipping are the spec's decisions D10 and D11, log 17; that Draw completes while the renderer holds the grant, and leaves
nobody holding it, is the model's choice, log 10). -/
def Obligations.DrawOverwritesClippedWindow : Prop :=
  ∀ (x y : RegIdx) (n : Fin 16) (s : State),
    decode (ofNibbles 0xD#4 (regNibble x) (regNibble y) (BitVec.ofFin n)) = .ok (.draw x y n) ∧
    (n.val = 0 ∨ s.i.toNat + n.val ≤ Config.memSize →
      ∃ t, exec (.draw x y n) s = .next t ∧
        (∀ (px : Fin Config.fbWidth) (py : Fin Config.fbHeight), t.fb.cell px py =
          if (s.reg x).toNat ≤ px.val ∧ px.val < (s.reg x).toNat + 8 ∧
             (s.reg y).toNat ≤ py.val ∧ py.val < (s.reg y).toNat + n.val
          then (s.byteAt (s.i.toNat + (py.val - (s.reg y).toNat))).getLsbD (7 - (px.val - (s.reg x).toNat))
          else s.fb.cell px py) ∧
        t.fbGrant = .nobody ∧ SameExcept [.fb, .grant] s t)

/-- Draw that runs off the end of memory keeps the rows whose bytes were in memory, draws no other, gives the grant back
and halts with the address of the first refused byte (that the rows stay drawn is the spec's decision D13, the address D9,
bit order and clipping D10 and D11, log 17; the grant is the model's choice, log 10). -/
def Obligations.DrawHaltsAtFirstRefusedRow : Prop :=
  ∀ (x y : RegIdx) (n : Fin 16) (s : State), n.val ≠ 0 → Config.memSize < s.i.toNat + n.val →
    ∃ t, exec (.draw x y n) s = .next t ∧
      HaltedWith (.memoryOutOfBounds (BitVec.ofNat 16 (max s.i.toNat Config.memSize))) s t ∧
      (∀ (px : Fin Config.fbWidth) (py : Fin Config.fbHeight), t.fb.cell px py =
        if (s.reg x).toNat ≤ px.val ∧ px.val < (s.reg x).toNat + 8 ∧
           (s.reg y).toNat ≤ py.val ∧ py.val < (s.reg y).toNat + (Config.memSize - s.i.toNat)
        then (s.byteAt (s.i.toNat + (py.val - (s.reg y).toNat))).getLsbD (7 - (px.val - (s.reg x).toNat))
        else s.fb.cell px py) ∧
      t.fbGrant = .nobody ∧ SameExcept [.fb, .grant, .run] s t

/-! ### Control flow -/

/-- Call is a no-operation (the spec's decision D14); every address but the two that are other instructions' words. -/
def Obligations.CallChangesNothing : Prop :=
  ∀ (addr : Addr12) (s : State),
    (addr ≠ 0x0E0#12 → addr ≠ 0x0EE#12 → decode (formatA 0x0#4 addr) = .ok (.call addr)) ∧
    exec (.call addr) s = .next s

/-- 42_control_flow.md R121: `pc` is the address; no error at the Goto; a target above 0x0FFE is caught by the next
fetch. -/
def Obligations.GotoSetsProgramCounter : Prop :=
  ∀ (addr : Addr12) (s : State),
    decode (formatA 0x1#4 addr) = .ok (.goto addr) ∧
    ∃ t, exec (.goto addr) s = .next t ∧ t.pc.toNat = addr.toNat ∧ SameExcept [.pc] s t ∧
      (s.mode = .running → 0x0FFE < addr.toNat →
        ∃ u, step t = .next u ∧ HaltedWith (.memoryOutOfBounds t.pc) t u)

/-- GotoPlusV0 adds V0, whatever the address's top nibble, without reduction (the spec's decision D18). -/
def Obligations.GotoPlusV0AddsV0Exactly : Prop :=
  ∀ (addr : Addr12) (s : State),
    decode (formatA 0xB#4 addr) = .ok (.gotoPlusV0 addr) ∧
    ∃ t, exec (.gotoPlusV0 addr) s = .next t ∧ t.pc.toNat = addr.toNat + (s.reg 0).toNat ∧ SameExcept [.pc] s t

/-- CallSubroutine below capacity pushes the advanced `pc` and jumps (the stack's shape is the spec's decision D4; that it
has that shape is part of the invariant `StepKeepsBounds` keeps). -/
def Obligations.CallSubroutinePushesReturnAddress : Prop :=
  ∀ (addr : Addr12) (s : State),
    decode (formatA 0x2#4 addr) = .ok (.callSubroutine addr) ∧
    (s.stack.length = s.params.stackDepth → s.sp < s.params.stackDepth →
      ∃ t, exec (.callSubroutine addr) s = .next t ∧ t.pc.toNat = addr.toNat ∧ t.sp = s.sp + 1 ∧
        t.stackEntry s.sp = s.pc ∧ (∀ k, k ≠ s.sp → t.stackEntry k = s.stackEntry k) ∧
        t.stack.length = s.stack.length ∧ SameExcept [.pc, .stack] s t)

/-- 60_exceptions.md R204. -/
def Obligations.CallSubroutineOnFullStackHalts : Prop :=
  ∀ (addr : Addr12) (s : State), s.sp = s.params.stackDepth →
    ∃ t, exec (.callSubroutine addr) s = .next t ∧ HaltedWith .stackOverflow s t ∧ SameExcept [.run] s t

/-- Return with a live entry pops it into `pc`; the entry stays in the array (the stack's shape is the spec's decision
D4). -/
def Obligations.ReturnPopsIntoProgramCounter : Prop :=
  decode 0x00EE#16 = .ok .ret ∧
  ∀ (s : State) (k : Nat), s.sp = k + 1 →
    ∃ t, exec .ret s = .next t ∧ t.sp = k ∧ t.pc = s.stackEntry k ∧ t.stack = s.stack ∧ SameExcept [.pc, .stack] s t

/-- 60_exceptions.md R205. -/
def Obligations.ReturnOnEmptyStackHalts : Prop :=
  ∀ s : State, s.sp = 0 → ∃ t, exec .ret s = .next t ∧ HaltedWith .stackUnderflow s t ∧ SameExcept [.run] s t

/-- After a CallSubroutine and a body that leaves the stack as it found it, Return restores the address after the call and
the stack pointer, whatever else the body changed (42_control_flow.md, the document's property of Return). -/
def Obligations.ReturnResumesAfterCall : Prop :=
  ∀ (addr : Addr12) (s t u : State), s.stack.length = s.params.stackDepth → s.sp < s.params.stackDepth →
    exec (.callSubroutine addr) s = .next t → u.sp = t.sp → u.stack = t.stack →
    ∃ v, exec .ret u = .next v ∧ v.pc = s.pc ∧ v.sp = s.sp ∧ ∀ k, k < s.sp → v.stackEntry k = s.stackEntry k

/-- The three skips add 2 to `pc` exactly when their condition holds (the conditions are the spec's decision D17). -/
def Obligations.SkipsAdvanceOnCondition : Prop :=
  ∀ (x y : RegIdx) (imm8 : Byte) (s : State),
    (decode (formatXI 0x3#4 x imm8) = .ok (.skipIfRegisterEquals x imm8) ∧
      ∃ t, exec (.skipIfRegisterEquals x imm8) s = .next t ∧
        t.pc = (if s.reg x = imm8 then s.pc + 2#16 else s.pc) ∧ SameExcept [.pc] s t) ∧
    (decode (formatXI 0x4#4 x imm8) = .ok (.skipIfRegisterNotEquals x imm8) ∧
      ∃ t, exec (.skipIfRegisterNotEquals x imm8) s = .next t ∧
        t.pc = (if s.reg x = imm8 then s.pc else s.pc + 2#16) ∧ SameExcept [.pc] s t) ∧
    (decode (ofNibbles 0x5#4 (regNibble x) (regNibble y) 0x0#4) = .ok (.skipIfRegistersEqual x y) ∧
      ∃ t, exec (.skipIfRegistersEqual x y) s = .next t ∧
        t.pc = (if s.reg x = s.reg y then s.pc + 2#16 else s.pc) ∧ SameExcept [.pc] s t)

/-! ### Registers and ALU -/

/-- 43_register_alu.md R140. -/
def Obligations.SetRegisterStoresImmediate : Prop :=
  ∀ (x : RegIdx) (imm8 : Byte) (s : State),
    decode (formatXI 0x6#4 x imm8) = .ok (.setRegister x imm8) ∧
    ∃ t, exec (.setRegister x imm8) s = .next t ∧ t.reg x = imm8 ∧ (∀ r, r ≠ x → t.reg r = s.reg r) ∧
      SameExcept [.regs] s t

/-- 43_register_alu.md R141: the sum wraps; VF is written only as the named register. -/
def Obligations.AddToRegisterWrapsWithoutFlag : Prop :=
  ∀ (x : RegIdx) (imm8 : Byte) (s : State),
    decode (formatXI 0x7#4 x imm8) = .ok (.addToRegister x imm8) ∧
    ∃ t, exec (.addToRegister x imm8) s = .next t ∧ (t.reg x).toNat = ((s.reg x).toNat + imm8.toNat) % 256 ∧
      (∀ r, r ≠ x → t.reg r = s.reg r) ∧ SameExcept [.regs] s t

/-- CopyRegister; which field is the destination is the spec's decision D15. -/
def Obligations.CopyRegisterCopies : Prop :=
  ∀ (x y : RegIdx) (s : State),
    decode (ofNibbles 0x8#4 (regNibble x) (regNibble y) 0x0#4) = .ok (.copyRegister x y) ∧
    ∃ t, exec (.copyRegister x y) s = .next t ∧ t.reg x = s.reg y ∧ (∀ r, r ≠ x → t.reg r = s.reg r) ∧
      SameExcept [.regs] s t

/-- Or, And and Xor, bit by bit, leaving every other register, VF among them, alone; which field is the destination is the
spec's decision D15. -/
def Obligations.BitwiseInstructionsLeaveFlag : Prop :=
  ∀ (x y : RegIdx) (s : State),
    (decode (ofNibbles 0x8#4 (regNibble x) (regNibble y) 0x1#4) = .ok (.or x y) ∧
      ∃ t, exec (.or x y) s = .next t ∧
        (∀ k, (t.reg x).getLsbD k = ((s.reg x).getLsbD k || (s.reg y).getLsbD k)) ∧
        (∀ r, r ≠ x → t.reg r = s.reg r) ∧ SameExcept [.regs] s t) ∧
    (decode (ofNibbles 0x8#4 (regNibble x) (regNibble y) 0x2#4) = .ok (.and x y) ∧
      ∃ t, exec (.and x y) s = .next t ∧
        (∀ k, (t.reg x).getLsbD k = ((s.reg x).getLsbD k && (s.reg y).getLsbD k)) ∧
        (∀ r, r ≠ x → t.reg r = s.reg r) ∧ SameExcept [.regs] s t) ∧
    (decode (ofNibbles 0x8#4 (regNibble x) (regNibble y) 0x3#4) = .ok (.xor x y) ∧
      ∃ t, exec (.xor x y) s = .next t ∧
        (∀ k, (t.reg x).getLsbD k = ((s.reg x).getLsbD k ^^ (s.reg y).getLsbD k)) ∧
        (∀ r, r ≠ x → t.reg r = s.reg r) ∧ SameExcept [.regs] s t)

/-- AddRegisters: the wrapped sum in V[x]; VF the carry unless it is the destination (operand order is the spec's decision
D15, the flag's byte D34). -/
def Obligations.AddRegistersSumsWithCarry : Prop :=
  ∀ (x y : RegIdx) (s : State),
    decode (ofNibbles 0x8#4 (regNibble x) (regNibble y) 0x4#4) = .ok (.addRegisters x y) ∧
    ∃ t, exec (.addRegisters x y) s = .next t ∧ (t.reg x).toNat = ((s.reg x).toNat + (s.reg y).toNat) % 256 ∧
      (x ≠ 15 → t.reg 15 = if (s.reg x).toNat + (s.reg y).toNat ≤ 255 then 0x00#8 else 0x01#8) ∧
      (∀ r, r ≠ x → r ≠ 15 → t.reg r = s.reg r) ∧ SameExcept [.regs] s t

/-- SubtractRegisters: the wrapped difference in V[x]; VF is 1 on borrow unless it is the destination (operand order is the
spec's decision D15, the flag's byte D34). -/
def Obligations.SubtractRegistersSetsFlagOnBorrow : Prop :=
  ∀ (x y : RegIdx) (s : State),
    decode (ofNibbles 0x8#4 (regNibble x) (regNibble y) 0x5#4) = .ok (.subtractRegisters x y) ∧
    ∃ t, exec (.subtractRegisters x y) s = .next t ∧
      (t.reg x).toNat = (if (s.reg y).toNat ≤ (s.reg x).toNat then (s.reg x).toNat - (s.reg y).toNat
        else (s.reg x).toNat + 256 - (s.reg y).toNat) ∧
      (x ≠ 15 → t.reg 15 = if (s.reg y).toNat ≤ (s.reg x).toNat then 0x00#8 else 0x01#8) ∧
      (∀ r, r ≠ x → r ≠ 15 → t.reg r = s.reg r) ∧ SameExcept [.regs] s t

/-- 43_register_alu.md R149: operands read first, then the flag written, then the result, so that both survive when the
destination is not VF and the result wins when it is (operand order is the spec's decision D15, the flag's byte D34). -/
def Obligations.ResultWinsOverFlagInVF : Prop :=
  ∀ (x y : RegIdx) (s : State),
    (∃ t, exec (.addRegisters x y) s = .next t ∧ t.reg x = s.reg x + s.reg y ∧
      (x = 15 → t.reg 15 = s.reg x + s.reg y) ∧
      (x ≠ 15 → t.reg 15 = flagByte (carryOut (s.reg x) (s.reg y)))) ∧
    (∃ t, exec (.subtractRegisters x y) s = .next t ∧ t.reg x = s.reg x - s.reg y ∧
      (x = 15 → t.reg 15 = s.reg x - s.reg y) ∧
      (x ≠ 15 → t.reg 15 = flagByte (borrowOut (s.reg x) (s.reg y))))

/-- SetRegisterRandomAnd: the source's byte, any of the 256, masked with the immediate; one byte is consumed (the meaning
and the free byte are the spec's decision D16). -/
def Obligations.RandomByteIsMaskedIntoRegister : Prop :=
  ∀ (x : RegIdx) (imm8 : Byte) (s : State),
    decode (formatXI 0xC#4 x imm8) = .ok (.setRegisterRandomAnd x imm8) ∧
    ∃ t, exec (.setRegisterRandomAnd x imm8) s = .next t ∧ t.reg x = s.randomByte &&& imm8 ∧
      (∀ r, r ≠ x → t.reg r = s.reg r) ∧ t.draws = s.draws + 1 ∧
      (∀ (r : Byte) (rest : List Byte), s.randInput = r :: rest → t.reg x = r &&& imm8 ∧ t.randInput = rest) ∧
      SameExcept [.regs, .random] s t

/-! ### Index and memory -/

/-- 44_index_memory.md R160: `I` is the address, which is always in bounds; no other instruction but DumpRegisters
writes `I`. -/
def Obligations.SetILoadsAddress : Prop :=
  ∀ (addr : Addr12) (s : State),
    decode (formatA 0xA#4 addr) = .ok (.setI addr) ∧
    (∃ t, exec (.setI addr) s = .next t ∧ t.i.toNat = addr.toNat ∧ t.i.toNat < Config.memSize ∧
      SameExcept [.index] s t) ∧
    ∀ (i : Instr) (t : State), exec i s = .next t → t.i ≠ s.i → (∃ a, i = .setI a) ∨ ∃ x, i = .dumpRegisters x

/-- 44_index_memory.md R161: V0 to V[x] stored at `I`, `I` advanced per byte, every other byte and all registers as before;
a refused write halts with the `I` it was tried at and keeps what was stored. -/
def Obligations.DumpRegistersStoresFromIndex : Prop :=
  ∀ (x : RegIdx) (s : State), s.mem.wf s.params = true →
    decode (ofNibbles 0xF#4 (regNibble x) 0x5#4 0x5#4) = .ok (.dumpRegisters x) ∧
    (s.i.toNat + x.val < Config.memSize →
      ∃ t, exec (.dumpRegisters x) s = .next t ∧ t.i.toNat = s.i.toNat + x.val + 1 ∧
        (∀ k : RegIdx, k ≤ x → t.byteAt (s.i.toNat + k.val) = s.reg k) ∧
        (∀ a, (a < s.i.toNat ∨ s.i.toNat + x.val < a) → t.byteAt a = s.byteAt a) ∧
        SameExcept [.index, .mem] s t) ∧
    (Config.memSize ≤ s.i.toNat + x.val →
      ∃ t, exec (.dumpRegisters x) s = .next t ∧ HaltedWith (.memoryOutOfBounds t.i) s t ∧
        t.i.toNat = max s.i.toNat Config.memSize ∧
        (∀ k : RegIdx, s.i.toNat + k.val < Config.memSize → t.byteAt (s.i.toNat + k.val) = s.reg k) ∧
        (∀ a, (a < s.i.toNat ∨ Config.memSize ≤ a) → t.byteAt a = s.byteAt a) ∧
        SameExcept [.index, .mem, .run] s t)

/-- A dump into code is seen by the very next fetch (20_memory.md on fetch coherence, marked derived there). -/
def Obligations.DumpedBytesAreFetched : Prop :=
  ∀ (x k k' : RegIdx) (s t : State), s.mem.wf s.params = true → s.i.toNat + x.val < Config.memSize →
    exec (.dumpRegisters x) s = .next t → k'.val = k.val + 1 → k' ≤ x → t.pc.toNat = s.i.toNat + k.val →
    t.fetch = .ok (ofBytes (s.reg k) (s.reg k'), { t with pc := t.pc + 2#16 })

/-- 20_memory.md R51: byte accesses succeed up to 4095 and otherwise raise the address and move nothing. -/
def Obligations.ByteAccessIsBoundsChecked : Prop :=
  ∀ (s : State) (addr : Addr) (v : Byte), s.mem.wf s.params = true →
    (addr.toNat ≤ 4095 →
      s.getByte addr.toNat = .ok (s.byteAt addr.toNat) ∧
      ∃ t, s.setByte addr.toNat v = .ok t ∧ t.byteAt addr.toNat = v ∧
        (∀ a, a ≠ addr.toNat → t.byteAt a = s.byteAt a) ∧ SameExcept [.mem] s t) ∧
    (4095 < addr.toNat →
      s.getByte addr.toNat = .error (.memoryOutOfBounds addr) ∧
      s.setByte addr.toNat v = .error (.memoryOutOfBounds addr))

/-- 20_memory.md R52: word accesses are most significant byte first and succeed up to 4094. -/
def Obligations.WordAccessIsBigEndian : Prop :=
  ∀ (s : State) (addr : Addr) (v : Word), s.mem.wf s.params = true →
    (addr.toNat ≤ 4094 →
      s.getWord addr.toNat = .ok (s.byteAt addr.toNat ++ s.byteAt (addr.toNat + 1)) ∧
      ∃ t, s.setWord addr.toNat v = .ok t ∧ t.byteAt addr.toNat = v.extractLsb' 8 8 ∧
        t.byteAt (addr.toNat + 1) = v.extractLsb' 0 8 ∧
        (∀ a, a ≠ addr.toNat → a ≠ addr.toNat + 1 → t.byteAt a = s.byteAt a) ∧ SameExcept [.mem] s t) ∧
    (4094 < addr.toNat →
      s.getWord addr.toNat = .error (.memoryOutOfBounds addr) ∧
      s.setWord addr.toNat v = .error (.memoryOutOfBounds addr))

/-! ### Keypad -/

/-- GetKey that finds a key stores it and completes, MODE unchanged (the report's form is the spec's decision D35). -/
def Obligations.GetKeyStoresReportedKey : Prop :=
  ∀ (x : RegIdx) (k : Fin 16) (s : State), s.keyReport = .key k →
    decode (ofNibbles 0xF#4 (regNibble x) 0x0#4 0xA#4) = .ok (.getKey x) ∧
    ∃ t, exec (.getKey x) s = .next t ∧ (t.reg x).toNat = k.val ∧ (∀ r, r ≠ x → t.reg r = s.reg r) ∧
      t.keyInput = s.keyInput.tail ∧ t.keyPolls = s.keyPolls + 1 ∧ SameExcept [.regs, .keypad] s t

/-- GetKey that finds no key waits: its register is remembered, nothing else changes (the spec's decision D19). -/
def Obligations.GetKeyWithoutKeyWaits : Prop :=
  ∀ (x : RegIdx) (s : State), s.keyReport = .noKey →
    ∃ t, exec (.getKey x) s = .next t ∧ t.mode = .waitingForKey ∧ t.keyDest = x ∧ t.haltCause = s.haltCause ∧
      t.haltInfo = s.haltInfo ∧ t.outcome = .suspended ∧ SameExcept [.run, .keypad] s t

/-- GetKey whose key source fails halts with KeyboardError and writes no register (the spec's decision D20). -/
def Obligations.GetKeyFailureHalts : Prop :=
  ∀ (x : RegIdx) (s : State), s.keyReport = .failure →
    ∃ t, exec (.getKey x) s = .next t ∧ HaltedWith .keyboardError s t ∧ SameExcept [.run, .keypad] s t

/-- A waiting core's step, for each report: a key completes the GetKey and the core runs again; a failure halts; no key
keeps waiting; nothing else changes (the spec's decision D19; that KEY_DEST is kept is the model's reading, log 11). -/
def Obligations.WaitingCoreReexaminesKeypad : Prop :=
  ∀ s : State, s.mode = .waitingForKey →
    ∃ t, step s = .next t ∧
      (∀ k, s.keyReport = .key k → t.mode = .running ∧ (t.reg s.keyDest).toNat = k.val ∧
        (∀ r, r ≠ s.keyDest → t.reg r = s.reg r) ∧ t.haltCause = s.haltCause ∧ t.haltInfo = s.haltInfo ∧
        t.keyDest = s.keyDest ∧ SameExcept [.regs, .run, .keypad] s t) ∧
      (s.keyReport = .failure → HaltedWith .keyboardError s t ∧ SameExcept [.run, .keypad] s t) ∧
      (s.keyReport = .noKey → t.outcome = .suspended ∧ SameExcept [.keypad] s t)

/-- A GetKey that waited through any number of suspended steps has the effect of one that found the key at once
(45_keyboard.md, marked derived there; decision D19). -/
def Obligations.WaitedGetKeyEqualsImmediate : Prop :=
  ∀ (s : State) (x : RegIdx) (k : Fin 16) (n : Nat) (rest : List Config.KeyReport), s.CanFetch →
    decode s.wordAtPc = .ok (.getKey x) → s.keyInput = List.replicate n .noKey ++ .key k :: rest →
    ∃ t u, Sys2Proof.core.run (n + 1) s = .next t ∧
      Sys2Proof.core.run 1 { s with keyInput := .key k :: rest } = .next u ∧
      (t.reg x).toNat = k.val ∧ t.pc = s.pc + 2#16 ∧ t.mode = .running ∧ u.mode = .running ∧ t.keyInput = rest ∧
      u.keyInput = rest ∧ t.haltCause = u.haltCause ∧ t.haltInfo = u.haltInfo ∧ SameExcept [.run, .keypad] u t

/-! ### Errors, resets and the host's operations -/

/-- Halt entry: the error is latched, its value presented, and nothing else is written (60_exceptions.md on halt entry);
then the table of causes: which cause and code each error latches and the value it carries (the codes are the spec's
decision D22). -/
def Obligations.HaltEntryLatchesError : Prop :=
  (∀ (s : State) (e : CoreError),
    HaltedWith e s (s.raise e) ∧ (s.raise e).outcome = .halt e.cause e.info ∧ SameExcept [.run] s (s.raise e)) ∧
  (∀ (s : State) (v : Word),
    ((s.raise (.unknownInstruction v)).haltCause = .unknownInstruction ∧
      (s.raise (.unknownInstruction v)).haltInfo = v) ∧
    ((s.raise (.memoryOutOfBounds v)).haltCause = .memoryOutOfBounds ∧ (s.raise (.memoryOutOfBounds v)).haltInfo = v) ∧
    ((s.raise (.registerInvalidIndex v)).haltCause = .registerInvalidIndex ∧
      (s.raise (.registerInvalidIndex v)).haltInfo = v) ∧
    ((s.raise .stackOverflow).haltCause = .stackOverflow ∧ (s.raise .stackOverflow).haltInfo = 0x0000#16) ∧
    ((s.raise .stackUnderflow).haltCause = .stackUnderflow ∧ (s.raise .stackUnderflow).haltInfo = 0x0000#16) ∧
    ((s.raise .keyboardError).haltCause = .keyboardError ∧ (s.raise .keyboardError).haltInfo = 0x0000#16)) ∧
  HaltCause.noCause.code = 0#3 ∧ HaltCause.unknownInstruction.code = 1#3 ∧ HaltCause.memoryOutOfBounds.code = 2#3 ∧
  HaltCause.registerInvalidIndex.code = 3#3 ∧ HaltCause.stackOverflow.code = 4#3 ∧
  HaltCause.stackUnderflow.code = 5#3 ∧ HaltCause.keyboardError.code = 6#3

/-- What the core presents on the status port: Done, Suspended or Halt by MODE, with MODE, HALT_CAUSE, HALT_INFO, `pc` and
`sp` as they are (50_interfaces.md on the status port; the codes and widths are the spec's decisions D22 and D23, the
outcome's reading from the state log 12). -/
def Obligations.StatusPortPresentsState : Prop :=
  ∀ s : State,
    (s.mode = .running → s.outcome = .done ∧ s.status.outcome = 0#2 ∧ s.status.mode = 0#2) ∧
    (s.mode = .waitingForKey → s.outcome = .suspended ∧ s.status.outcome = 1#2 ∧ s.status.mode = 1#2) ∧
    (s.mode = .halted →
      s.outcome = .halt s.haltCause s.haltInfo ∧ s.status.outcome = 2#2 ∧ s.status.mode = 2#2) ∧
    s.status.haltCause = s.haltCause.code ∧ s.status.haltInfo = s.haltInfo ∧ s.status.pcOut = s.pc ∧
    (s.params.Legal → s.sp ≤ s.params.stackDepth → s.status.spOut.toNat = s.sp)

/-- Power-on of a machine with any legal parameters, and the parameters' defaults; the zeros are the spec's decision D7, the
defaults D1, D4, D5, D6 and D11. -/
def Obligations.PowerOnState : Prop :=
  (∀ p : Params, p.Legal →
    (State.powerOn p).params = p ∧
    (State.powerOn p).pc = 0x0200#16 ∧ (State.powerOn p).sp = 0 ∧ (State.powerOn p).mode = .running ∧
    (State.powerOn p).haltCause = .noCause ∧ (State.powerOn p).haltInfo = 0x0000#16 ∧
    (State.powerOn p).i = 0x0000#16 ∧ (∀ r, (State.powerOn p).reg r = 0x00#8) ∧
    (State.powerOn p).stack.length = p.stackDepth ∧ (∀ k, (State.powerOn p).stackEntry k = 0x0000#16) ∧
    (∀ x y, (State.powerOn p).fb.cell x y = false) ∧ (State.powerOn p).fbGrant = .nobody ∧
    (∀ k (h : k < p.fontTable.length), (State.powerOn p).byteAt (p.fontBase + k) = p.fontTable[k]) ∧
    (∀ a, a < p.fontBase ∨ p.fontBase + 80 ≤ a → (State.powerOn p).byteAt a = 0x00#8)) ∧
  State.reset = State.powerOn State.reset.params ∧ State.reset.params.Legal ∧ State.reset.params.stackDepth = 16 ∧
  State.reset.params.pcW = 16 ∧ State.reset.params.stackW = 16 ∧ State.reset.params.fontBase = 0x050 ∧
  State.reset.params.drawOffscreen = .clip ∧ State.reset.params.fontTable.length = 80 ∧
  State.reset.byteAt 0x050 = 0xF0#8 ∧ State.reset.byteAt 0x051 = 0x90#8 ∧ State.reset.byteAt 0x052 = 0x90#8 ∧
  State.reset.byteAt 0x053 = 0x90#8 ∧ State.reset.byteAt 0x054 = 0xF0#8

/-- The soft reset restores `pc`, `sp`, MODE and the halt record and leaves everything else (the spec's decision D8). -/
def Obligations.SoftResetRestartsCore : Prop :=
  ∀ s : State, s.softReset.pc = 0x0200#16 ∧ s.softReset.sp = 0 ∧ s.softReset.mode = .running ∧
    s.softReset.haltCause = .noCause ∧ s.softReset.haltInfo = 0x0000#16 ∧ s.softReset.stack = s.stack ∧
    s.softReset.keyDest = s.keyDest ∧ SameExcept [.pc, .stack, .run] s s.softReset

/-- 20_memory.md R64: the bulk load is all or nothing, and a refused one is a result to the host, no halt. -/
def Obligations.LoadIsAllOrNothing : Prop :=
  ∀ (s : State) (offset : Addr) (bytes : List Byte), s.mem.wf s.params = true →
    (offset.toNat + bytes.length ≤ 4096 →
      ∃ t, s.load offset bytes = .ok t ∧ (∀ k (h : k < bytes.length), t.byteAt (offset.toNat + k) = bytes[k]) ∧
        (∀ a, (a < offset.toNat ∨ offset.toNat + bytes.length ≤ a) → t.byteAt a = s.byteAt a) ∧
        SameExcept [.mem] s t) ∧
    (4096 < offset.toNat + bytes.length → s.load offset bytes = .error (.memoryOutOfBounds offset))

/-- 50_interfaces.md R193: the register test port round-trips every index up to 15 and refuses every other, changing no
register, and the bulk views are inverse (the port's 16-bit index is the model's, log 14). -/
def Obligations.RegisterPortRoundTrips : Prop :=
  ∀ (s : State) (index : Word) (v : Byte),
    (index.toNat ≤ 15 → ∃ t, s.portSet index v = .ok t ∧ t.portGet index = .ok v ∧
      (∀ other : Word, other ≠ index → t.portGet other = s.portGet other) ∧ SameExcept [.regs] s t) ∧
    (15 < index.toNat → s.portGet index = .error (.registerInvalidIndex index) ∧
      s.portSet index v = .error (.registerInvalidIndex index)) ∧
    (∀ bytes : Vector Byte 16, (s.fromArray bytes).toArray = bytes ∧ SameExcept [.regs] s (s.fromArray bytes))

/-- The snapshot is the framebuffer row by row: element y*64+x is cell (x, y) (the spec's decision D12). -/
def Obligations.SnapshotIsRowMajor : Prop :=
  ∀ (s : State) (x : Fin Config.fbWidth) (y : Fin Config.fbHeight) (h : y.val * 64 + x.val < 2048),
    s.snapshot[y.val * 64 + x.val] = s.fb.cell x y

/-- The arbiter grants the framebuffer to the renderer exactly when nobody holds it; a request and a release change
nothing else; after ClearDisplay or Draw nobody holds it (50_interfaces.md on the arbiter; log 10). -/
def Obligations.ArbiterGrantsOneSide : Prop :=
  ∀ s : State,
    (s.fbGrant = .nobody → ∃ t, s.rendererRequest = some t ∧ t.fbGrant = .renderer ∧ t.rendererRelease = s ∧
      SameExcept [.grant] s t) ∧
    (s.fbGrant ≠ .nobody → s.rendererRequest = none) ∧
    (∀ (i : Instr) (t : State), exec i s = .next t → t.fbGrant ≠ s.fbGrant →
      t.fbGrant = .nobody ∧ (i = .clearDisplay ∨ ∃ x y n, i = .draw x y n))
end

