-- ==== Sys2Proof/Laws/Decode.lean ====
section
/-! SUPPORT. The nibbles and bytes of a word, and the fields of each format. -/

namespace Sys2Proof

/-- The bits of a word made of four nibbles. -/
theorem getLsbD_ofNibbles (a b c d : Nibble) (i : Nat) :
    (ofNibbles a b c d).getLsbD i =
      if i < 4 then d.getLsbD i
      else if i - 4 < 4 then c.getLsbD (i - 4)
      else if i - 4 - 4 < 4 then b.getLsbD (i - 4 - 4)
      else a.getLsbD (i - 4 - 4 - 4) := by
  show (a ++ b ++ c ++ d).getLsbD i = _
  rw [BitVec.getLsbD_append, BitVec.getLsbD_append, BitVec.getLsbD_append]

/-- The bits of an address made of three nibbles. -/
theorem getLsbD_threeNibbles (b c d : Nibble) (i : Nat) :
    BitVec.getLsbD (w := 12) (b ++ c ++ d) i =
      if i < 4 then d.getLsbD i else if i - 4 < 4 then c.getLsbD (i - 4) else b.getLsbD (i - 4 - 4) := by
  show (b ++ c ++ d).getLsbD i = _
  rw [BitVec.getLsbD_append, BitVec.getLsbD_append]

/-- The bits of a byte made of two nibbles. -/
theorem getLsbD_twoNibbles (c d : Nibble) (i : Nat) :
    BitVec.getLsbD (w := 8) (c ++ d) i = if i < 4 then d.getLsbD i else c.getLsbD (i - 4) := by
  show (c ++ d).getLsbD i = _
  rw [BitVec.getLsbD_append]

/-- The bits of a word made of two bytes. -/
theorem getLsbD_ofBytes (c d : Byte) (i : Nat) :
    (ofBytes c d).getLsbD i = if i < 8 then d.getLsbD i else c.getLsbD (i - 8) := by
  show (c ++ d).getLsbD i = _
  rw [BitVec.getLsbD_append]

@[simp] theorem nib0_ofNibbles (a b c d : Nibble) : nib0 (ofNibbles a b c d) = a := by
  refine BitVec.eq_of_getLsbD_eq fun i hi => ?_
  rw [nib0, BitVec.getLsbD_extractLsb', getLsbD_ofNibbles]
  simp [hi, show ¬(12 + i < 4) by omega, show ¬(12 + i - 4 < 4) by omega, show ¬(12 + i - 4 - 4 < 4) by omega,
    show 12 + i - 4 - 4 - 4 = i by omega]

@[simp] theorem nib1_ofNibbles (a b c d : Nibble) : nib1 (ofNibbles a b c d) = b := by
  refine BitVec.eq_of_getLsbD_eq fun i hi => ?_
  rw [nib1, BitVec.getLsbD_extractLsb', getLsbD_ofNibbles]
  simp [hi, show ¬(8 + i < 4) by omega, show ¬(8 + i - 4 < 4) by omega, show 8 + i - 4 - 4 = i by omega]

@[simp] theorem nib2_ofNibbles (a b c d : Nibble) : nib2 (ofNibbles a b c d) = c := by
  refine BitVec.eq_of_getLsbD_eq fun i hi => ?_
  rw [nib2, BitVec.getLsbD_extractLsb', getLsbD_ofNibbles]
  simp [hi]

@[simp] theorem nib3_ofNibbles (a b c d : Nibble) : nib3 (ofNibbles a b c d) = d := by
  refine BitVec.eq_of_getLsbD_eq fun i hi => ?_
  rw [nib3, BitVec.getLsbD_extractLsb', getLsbD_ofNibbles]
  simp [hi]

/-- A word is its four nibbles. -/
theorem ofNibbles_nibs (w : Word) : ofNibbles (nib0 w) (nib1 w) (nib2 w) (nib3 w) = w := by
  refine BitVec.eq_of_getLsbD_eq fun i hi => ?_
  rw [getLsbD_ofNibbles, nib0, nib1, nib2, nib3]
  simp only [BitVec.getLsbD_extractLsb']
  by_cases h1 : i < 4
  · simp [h1]
  · by_cases h2 : i - 4 < 4
    · simp [h1, h2, show 4 + (i - 4) = i by omega]
    · by_cases h3 : i - 4 - 4 < 4
      · simp [h1, h2, h3, show 8 + (i - 4 - 4) = i by omega]
      · simp [h1, h2, h3, show i - 4 - 4 - 4 < 4 by omega, show 12 + (i - 4 - 4 - 4) = i by omega]

/-- Two words with the same four nibbles are the same word. -/
theorem word_ext {v w : Word} (h0 : nib0 v = nib0 w) (h1 : nib1 v = nib1 w) (h2 : nib2 v = nib2 w)
    (h3 : nib3 v = nib3 w) : v = w := by
  rw [← ofNibbles_nibs v, ← ofNibbles_nibs w, h0, h1, h2, h3]

@[simp] theorem regNibble_toFin (r : RegIdx) : (regNibble r).toFin = r := rfl

@[simp] theorem regNibble_fieldX (w : Word) : regNibble (fieldX w) = nib1 w := rfl
@[simp] theorem regNibble_fieldY (w : Word) : regNibble (fieldY w) = nib2 w := rfl
@[simp] theorem ofFin_fieldN (w : Word) : BitVec.ofFin (fieldN w) = nib3 w := rfl

/-- A byte is its two nibbles. -/
theorem byte_of_nibbles (b : Byte) : b.extractLsb' 4 4 ++ b.extractLsb' 0 4 = b := by
  refine BitVec.eq_of_getLsbD_eq (w := 8) fun i hi => ?_
  rw [getLsbD_twoNibbles]
  simp only [BitVec.getLsbD_extractLsb']
  by_cases h1 : i < 4
  · simp [h1]
  · simp [h1, show i - 4 < 4 by omega, show 4 + (i - 4) = i by omega]

/-- An address field is its three nibbles. -/
theorem addr_of_nibbles (a : Addr12) : a.extractLsb' 8 4 ++ a.extractLsb' 4 4 ++ a.extractLsb' 0 4 = a := by
  refine BitVec.eq_of_getLsbD_eq (w := 12) fun i hi => ?_
  rw [getLsbD_threeNibbles]
  simp only [BitVec.getLsbD_extractLsb']
  by_cases h1 : i < 4
  · simp [h1]
  · by_cases h2 : i - 4 < 4
    · simp [h1, h2, show 4 + (i - 4) = i by omega]
    · simp [h1, h2, show i - 4 - 4 < 4 by omega, show 8 + (i - 4 - 4) = i by omega]

@[simp] theorem nib0_formatA (n : Nibble) (a : Addr12) : nib0 (formatA n a) = n := by simp [formatA]
@[simp] theorem fieldAddr_formatA (n : Nibble) (a : Addr12) : fieldAddr (formatA n a) = a := by
  simp [formatA, fieldAddr, addr_of_nibbles]

@[simp] theorem nib0_formatXI (n : Nibble) (x : RegIdx) (b : Byte) : nib0 (formatXI n x b) = n := by simp [formatXI]
@[simp] theorem fieldX_formatXI (n : Nibble) (x : RegIdx) (b : Byte) : fieldX (formatXI n x b) = x := by
  simp [formatXI, fieldX]
@[simp] theorem fieldImm8_formatXI (n : Nibble) (x : RegIdx) (b : Byte) : fieldImm8 (formatXI n x b) = b := by
  simp [formatXI, fieldImm8, byte_of_nibbles]

@[simp] theorem nib0_formatXYN (n m : Nibble) (x y : RegIdx) : nib0 (formatXYN n x y m) = n := by simp [formatXYN]
@[simp] theorem nib3_formatXYN (n m : Nibble) (x y : RegIdx) : nib3 (formatXYN n x y m) = m := by simp [formatXYN]
@[simp] theorem fieldX_formatXYN (n m : Nibble) (x y : RegIdx) : fieldX (formatXYN n x y m) = x := by
  simp [formatXYN, fieldX]
@[simp] theorem fieldY_formatXYN (n m : Nibble) (x y : RegIdx) : fieldY (formatXYN n x y m) = y := by
  simp [formatXYN, fieldY]
@[simp] theorem fieldN_formatXYN (n m : Nibble) (x y : RegIdx) : fieldN (formatXYN n x y m) = m.toFin := by
  simp [formatXYN, fieldN]

@[simp] theorem nib0_formatXF (n p q : Nibble) (x : RegIdx) : nib0 (formatXF n x p q) = n := by simp [formatXF]
@[simp] theorem nib2_formatXF (n p q : Nibble) (x : RegIdx) : nib2 (formatXF n x p q) = p := by simp [formatXF]
@[simp] theorem nib3_formatXF (n p q : Nibble) (x : RegIdx) : nib3 (formatXF n x p q) = q := by simp [formatXF]
@[simp] theorem fieldX_formatXF (n p q : Nibble) (x : RegIdx) : fieldX (formatXF n x p q) = x := by
  simp [formatXF, fieldX]

/-- The nibbles of an address field, as `nib1`, `nib2`, `nib3` read them. -/
theorem nibs_of_fieldAddr (w : Word) :
    (fieldAddr w).extractLsb' 8 4 = nib1 w ∧ (fieldAddr w).extractLsb' 4 4 = nib2 w ∧
      (fieldAddr w).extractLsb' 0 4 = nib3 w := by
  refine ⟨?_, ?_, ?_⟩ <;> refine BitVec.eq_of_getLsbD_eq fun i hi => ?_ <;>
    rw [BitVec.getLsbD_extractLsb', fieldAddr, getLsbD_threeNibbles]
  · simp [hi, show ¬(8 + i < 4) by omega, show ¬(8 + i - 4 < 4) by omega, show 8 + i - 4 - 4 = i by omega]
  · simp [hi]
  · simp [hi]

/-- The nibbles of an immediate, as `nib2` and `nib3` read them. -/
theorem nibs_of_fieldImm8 (w : Word) :
    (fieldImm8 w).extractLsb' 4 4 = nib2 w ∧ (fieldImm8 w).extractLsb' 0 4 = nib3 w := by
  refine ⟨?_, ?_⟩ <;> refine BitVec.eq_of_getLsbD_eq fun i hi => ?_ <;>
    rw [BitVec.getLsbD_extractLsb', fieldImm8, getLsbD_twoNibbles] <;> simp [hi]

/-- A word's two bytes put back together. -/
theorem ofBytes_high_low (w : Word) : ofBytes (highByte w) (lowByte w) = w := by
  refine BitVec.eq_of_getLsbD_eq fun i hi => ?_
  rw [getLsbD_ofBytes, highByte, lowByte]
  simp only [BitVec.getLsbD_extractLsb']
  by_cases h : i < 8
  · simp [h]
  · simp [h, show i - 8 < 8 by omega, show 8 + (i - 8) = i by omega]

@[simp] theorem highByte_ofBytes (a b : Byte) : highByte (ofBytes a b) = a := by
  refine BitVec.eq_of_getLsbD_eq fun i hi => ?_
  rw [highByte, BitVec.getLsbD_extractLsb', getLsbD_ofBytes]
  simp [hi]

@[simp] theorem lowByte_ofBytes (a b : Byte) : lowByte (ofBytes a b) = b := by
  refine BitVec.eq_of_getLsbD_eq fun i hi => ?_
  rw [lowByte, BitVec.getLsbD_extractLsb', getLsbD_ofBytes]
  simp [hi]

/-- What a word's nibbles say when it decodes to an instruction: the rows of the table, each with its fields. -/
inductive DecodesTo (w : Word) : Instr → Prop where
  | clearDisplay (h0 : nib0 w = 0x0#4) (h1 : nib1 w = 0x0#4) (h2 : nib2 w = 0xE#4) (h3 : nib3 w = 0x0#4) :
      DecodesTo w .clearDisplay
  | ret (h0 : nib0 w = 0x0#4) (h1 : nib1 w = 0x0#4) (h2 : nib2 w = 0xE#4) (h3 : nib3 w = 0xE#4) : DecodesTo w .ret
  | call (h0 : nib0 w = 0x0#4) (hne0 : ¬(nib1 w = 0x0#4 ∧ nib2 w = 0xE#4 ∧ nib3 w = 0x0#4))
      (hneE : ¬(nib1 w = 0x0#4 ∧ nib2 w = 0xE#4 ∧ nib3 w = 0xE#4)) : DecodesTo w (.call (fieldAddr w))
  | goto (h0 : nib0 w = 0x1#4) : DecodesTo w (.goto (fieldAddr w))
  | callSubroutine (h0 : nib0 w = 0x2#4) : DecodesTo w (.callSubroutine (fieldAddr w))
  | skipIfRegisterEquals (h0 : nib0 w = 0x3#4) : DecodesTo w (.skipIfRegisterEquals (fieldX w) (fieldImm8 w))
  | skipIfRegisterNotEquals (h0 : nib0 w = 0x4#4) : DecodesTo w (.skipIfRegisterNotEquals (fieldX w) (fieldImm8 w))
  | skipIfRegistersEqual (h0 : nib0 w = 0x5#4) (h3 : nib3 w = 0x0#4) : DecodesTo w (.skipIfRegistersEqual (fieldX w) (fieldY w))
  | setRegister (h0 : nib0 w = 0x6#4) : DecodesTo w (.setRegister (fieldX w) (fieldImm8 w))
  | addToRegister (h0 : nib0 w = 0x7#4) : DecodesTo w (.addToRegister (fieldX w) (fieldImm8 w))
  | copyRegister (h0 : nib0 w = 0x8#4) (h3 : nib3 w = 0x0#4) : DecodesTo w (.copyRegister (fieldX w) (fieldY w))
  | or (h0 : nib0 w = 0x8#4) (h3 : nib3 w = 0x1#4) : DecodesTo w (.or (fieldX w) (fieldY w))
  | and (h0 : nib0 w = 0x8#4) (h3 : nib3 w = 0x2#4) : DecodesTo w (.and (fieldX w) (fieldY w))
  | xor (h0 : nib0 w = 0x8#4) (h3 : nib3 w = 0x3#4) : DecodesTo w (.xor (fieldX w) (fieldY w))
  | addRegisters (h0 : nib0 w = 0x8#4) (h3 : nib3 w = 0x4#4) : DecodesTo w (.addRegisters (fieldX w) (fieldY w))
  | subtractRegisters (h0 : nib0 w = 0x8#4) (h3 : nib3 w = 0x5#4) : DecodesTo w (.subtractRegisters (fieldX w) (fieldY w))
  | setI (h0 : nib0 w = 0xA#4) : DecodesTo w (.setI (fieldAddr w))
  | gotoPlusV0 (h0 : nib0 w = 0xB#4) : DecodesTo w (.gotoPlusV0 (fieldAddr w))
  | setRegisterRandomAnd (h0 : nib0 w = 0xC#4) : DecodesTo w (.setRegisterRandomAnd (fieldX w) (fieldImm8 w))
  | draw (h0 : nib0 w = 0xD#4) : DecodesTo w (.draw (fieldX w) (fieldY w) (fieldN w))
  | dumpRegisters (h0 : nib0 w = 0xF#4) (h2 : nib2 w = 0x5#4) (h3 : nib3 w = 0x5#4) :
      DecodesTo w (.dumpRegisters (fieldX w))
  | getKey (h0 : nib0 w = 0xF#4) (h2 : nib2 w = 0x0#4) (h3 : nib3 w = 0xA#4) : DecodesTo w (.getKey (fieldX w))

/-- One test of the table: it succeeds with its row's instruction, or the search goes on. -/
theorem row_ok {c : Prop} [Decidable c] {a i : Instr} {rest : Except DecodeError Instr}
    (h : (if c then .ok a else rest) = .ok i) : (c ∧ a = i) ∨ (¬c ∧ rest = .ok i) := by
  by_cases hc : c
  · rw [if_pos hc] at h
    exact .inl ⟨hc, Except.ok.inj h⟩
  · rw [if_neg hc] at h
    exact .inr ⟨hc, h⟩

/-- The decoder inverted. -/
theorem decode_inv {w : Word} {i : Instr} (h : decode w = .ok i) : DecodesTo w i := by
  unfold decode at h
  rcases row_ok h with ⟨⟨h0, h1, h2, h3⟩, rfl⟩ | ⟨n1, h⟩
  · exact .clearDisplay h0 h1 h2 h3
  rcases row_ok h with ⟨⟨h0, h1, h2, h3⟩, rfl⟩ | ⟨n2, h⟩
  · exact .ret h0 h1 h2 h3
  rcases row_ok h with ⟨h0, rfl⟩ | ⟨-, h⟩
  · exact .call h0 (fun e => n1 ⟨h0, e⟩) (fun e => n2 ⟨h0, e⟩)
  rcases row_ok h with ⟨h0, rfl⟩ | ⟨-, h⟩
  · exact .goto h0
  rcases row_ok h with ⟨h0, rfl⟩ | ⟨-, h⟩
  · exact .callSubroutine h0
  rcases row_ok h with ⟨h0, rfl⟩ | ⟨-, h⟩
  · exact .skipIfRegisterEquals h0
  rcases row_ok h with ⟨h0, rfl⟩ | ⟨-, h⟩
  · exact .skipIfRegisterNotEquals h0
  rcases row_ok h with ⟨⟨h0, h3⟩, rfl⟩ | ⟨-, h⟩
  · exact .skipIfRegistersEqual h0 h3
  rcases row_ok h with ⟨h0, rfl⟩ | ⟨-, h⟩
  · exact .setRegister h0
  rcases row_ok h with ⟨h0, rfl⟩ | ⟨-, h⟩
  · exact .addToRegister h0
  rcases row_ok h with ⟨⟨h0, h3⟩, rfl⟩ | ⟨-, h⟩
  · exact .copyRegister h0 h3
  rcases row_ok h with ⟨⟨h0, h3⟩, rfl⟩ | ⟨-, h⟩
  · exact .or h0 h3
  rcases row_ok h with ⟨⟨h0, h3⟩, rfl⟩ | ⟨-, h⟩
  · exact .and h0 h3
  rcases row_ok h with ⟨⟨h0, h3⟩, rfl⟩ | ⟨-, h⟩
  · exact .xor h0 h3
  rcases row_ok h with ⟨⟨h0, h3⟩, rfl⟩ | ⟨-, h⟩
  · exact .addRegisters h0 h3
  rcases row_ok h with ⟨⟨h0, h3⟩, rfl⟩ | ⟨-, h⟩
  · exact .subtractRegisters h0 h3
  rcases row_ok h with ⟨h0, rfl⟩ | ⟨-, h⟩
  · exact .setI h0
  rcases row_ok h with ⟨h0, rfl⟩ | ⟨-, h⟩
  · exact .gotoPlusV0 h0
  rcases row_ok h with ⟨h0, rfl⟩ | ⟨-, h⟩
  · exact .setRegisterRandomAnd h0
  rcases row_ok h with ⟨h0, rfl⟩ | ⟨-, h⟩
  · exact .draw h0
  rcases row_ok h with ⟨⟨h0, h2, h3⟩, rfl⟩ | ⟨-, h⟩
  · exact .dumpRegisters h0 h2 h3
  rcases row_ok h with ⟨⟨h0, h2, h3⟩, rfl⟩ | ⟨-, h⟩
  · exact .getKey h0 h2 h3
  cases h

/-- The decoder, row by row. -/
theorem decode_of_decodesTo {w : Word} {i : Instr} (h : DecodesTo w i) : decode w = .ok i := by
  cases h with
  | call h0 hne0 hneE =>
    unfold decode
    rw [if_neg (fun e => hne0 e.2), if_neg (fun e => hneE e.2), if_pos h0]
  | _ => simp [decode, *]

/-- One test of the table for the error: only a search that goes on past it can fail. -/
theorem row_error {c : Prop} [Decidable c] {a : Instr} {e : DecodeError} {rest : Except DecodeError Instr}
    (h : (if c then .ok a else rest) = .error e) : rest = .error e := by
  by_cases hc : c
  · rw [if_pos hc] at h
    cases h
  · rwa [if_neg hc] at h

/-- The decode error carries the raw word (30_encoding.md R88). -/
theorem decode_error {w : Word} {e : DecodeError} (h : decode w = .error e) : e = .unknownInstruction w := by
  unfold decode at h
  iterate 22 replace h := row_error h
  exact (Except.error.inj h).symm

end Sys2Proof
end

