-- ==== Sys2Proof/Laws/Framebuffer.lean ====
section
/-! SUPPORT. The framebuffer: reading back a cell after each operation. -/

namespace Sys2Proof.Machine

/-- Two cells share a place only if they are the same cell. -/
theorem cellIndex_inj {x x' : Fin Config.fbWidth} {y y' : Fin Config.fbHeight} :
    cellIndex x y = cellIndex x' y' ↔ x = x' ∧ y = y' := by
  have hx := x.isLt
  have hx' := x'.isLt
  simp only [cellIndex, Fin.ext_iff]
  simp only [Config.fbWidth] at *
  omega

theorem cellIndex_lt (x : Fin Config.fbWidth) (y : Fin Config.fbHeight) : cellIndex x y < 2048 := by
  have hx := x.isLt
  have hy := y.isLt
  simp only [cellIndex]
  simp only [Config.fbWidth, Config.fbHeight] at *
  omega

@[simp] theorem Framebuffer.cell_clear (x : Fin Config.fbWidth) (y : Fin Config.fbHeight) :
    Framebuffer.clear.cell x y = false := by
  simp [Framebuffer.clear, Framebuffer.cell]

/-- The bit of cell `(x, y)` and no other. -/
theorem getLsbD_cellBit (x x' : Fin Config.fbWidth) (y y' : Fin Config.fbHeight) :
    (1#2048 <<< cellIndex x y).getLsbD (cellIndex x' y') = decide (x' = x ∧ y' = y) := by
  have hlt := cellIndex_lt x y
  by_cases h : x' = x ∧ y' = y
  · obtain ⟨rfl, rfl⟩ := h
    simp [hlt]
  · have hne : cellIndex x' y' ≠ cellIndex x y := fun e => h (cellIndex_inj.1 e)
    simp only [h, decide_false, BitVec.getLsbD_shiftLeft, BitVec.getLsbD_one]
    by_cases hl : cellIndex x' y' < cellIndex x y
    · simp [hl]
    · simp [show cellIndex x' y' - cellIndex x y ≠ 0 by omega]

/-- A cell write read back at any cell. -/
theorem Framebuffer.cell_setCell (fb : Framebuffer) (x x' : Fin Config.fbWidth) (y y' : Fin Config.fbHeight) (b : Bool) :
    (fb.setCell x y b).cell x' y' = if x' = x ∧ y' = y then b else fb.cell x' y' := by
  have hlt := cellIndex_lt x' y'
  unfold Framebuffer.cell Framebuffer.setCell
  cases b
  · simp only [Bool.false_eq_true, if_false, BitVec.getLsbD_and, BitVec.getLsbD_not, getLsbD_cellBit, hlt]
    by_cases h : x' = x ∧ y' = y <;> simp [h]
  · simp only [if_true, BitVec.getLsbD_or, getLsbD_cellBit]
    by_cases h : x' = x ∧ y' = y <;> simp [h]

/-- One pixel write read back at any cell; an off-screen pixel writes none. -/
theorem Framebuffer.cell_plot (off : OffscreenPixel) (fb : Framebuffer) (px py : Nat) (b : Bool) (x : Fin Config.fbWidth) (y : Fin Config.fbHeight) :
    (fb.plot off px py b).cell x y = if x.val = px ∧ y.val = py then b else fb.cell x y := by
  unfold Framebuffer.plot
  split
  · rw [Framebuffer.cell_setCell]
    simp [Fin.ext_iff]
  · rename_i h
    have : ¬(x.val = px ∧ y.val = py) := fun e => h ⟨e.1 ▸ x.isLt, e.2 ▸ y.isLt⟩
    cases off
    simp [this]

/-- Some columns of a sprite row, read back at any cell. -/
theorem Framebuffer.cell_drawColumns (off : OffscreenPixel) (fb : Framebuffer) (b : Byte) (x0 py cols : Nat) (x : Fin Config.fbWidth)
    (y : Fin Config.fbHeight) :
    (fb.drawColumns off b x0 py cols).cell x y =
      if y.val = py ∧ x0 ≤ x.val ∧ x.val < x0 + cols then spriteBit b (x.val - x0) else fb.cell x y := by
  induction cols with
  | zero => simp [Framebuffer.drawColumns, show ¬(x0 ≤ x.val ∧ x.val < x0) by omega]
  | succ cols ih =>
    rw [Framebuffer.drawColumns, Framebuffer.cell_plot, ih]
    by_cases hy : y.val = py
    · by_cases hx : x.val = x0 + cols
      · simp [hy, hx]
      · by_cases hin : x0 ≤ x.val ∧ x.val < x0 + cols
        · simp [hy, hx, hin, show x0 ≤ x.val ∧ x.val < x0 + (cols + 1) by omega]
        · simp [hy, hx, hin, show ¬(x0 ≤ x.val ∧ x.val < x0 + (cols + 1)) by omega]
    · simp [hy]

/-- One sprite row, read back at any cell. -/
theorem Framebuffer.cell_drawByte (off : OffscreenPixel) (fb : Framebuffer) (b : Byte) (x0 py : Nat) (x : Fin Config.fbWidth)
    (y : Fin Config.fbHeight) :
    (fb.drawByte off b x0 py).cell x y =
      if y.val = py ∧ x0 ≤ x.val ∧ x.val < x0 + 8 then spriteBit b (x.val - x0) else fb.cell x y :=
  Framebuffer.cell_drawColumns off fb b x0 py 8 x y

end Sys2Proof.Machine
end

