-- ==== Sys2Proof/Laws/Memory.lean ====
section
/-! SUPPORT. Memory: reading back a write, and the canonical form kept by every operation. -/

namespace Sys2Proof.Machine

variable {p : Params}

/-- The glyph table's bytes are what an unlisted address of it reads as (20_memory.md R60). -/
theorem initialByte_font {k : Nat} (hk : k < 80) : initialByte p (p.fontBase + k) = p.fontTable.getD k 0x00#8 := by
  rw [initialByte, if_pos ⟨Nat.le_add_right _ _, Nat.add_lt_add_left hk _⟩, Nat.add_sub_cancel_left]

/-- Every other unlisted address reads as zero. -/
theorem initialByte_elsewhere {a : Nat} (ha : a < p.fontBase ∨ p.fontBase + 80 ≤ a) : initialByte p a = 0x00#8 := by
  rw [initialByte, if_neg (by omega)]

/-- Below a canonical list's first address every byte is the power-on byte. -/
theorem Memory.read_below {lo a : Nat} {m : Memory} (h : Memory.canonicalFrom p lo m = true) (ha : a < lo) :
    m.read p a = initialByte p a := by
  cases m with
  | nil => rfl
  | cons c rest =>
    obtain ⟨k, v⟩ := c
    simp only [Memory.canonicalFrom, Bool.and_eq_true, decide_eq_true_eq] at h
    simp [Memory.read, show a < k by omega]

/-- A list canonical from an address is canonical from any lower one. -/
theorem Memory.canonicalFrom_mono {lo lo' : Nat} {m : Memory} (h : Memory.canonicalFrom p lo m = true) (hl : lo' ≤ lo) :
    Memory.canonicalFrom p lo' m = true := by
  cases m with
  | nil => rfl
  | cons c rest =>
    obtain ⟨k, v⟩ := c
    simp only [Memory.canonicalFrom, Bool.and_eq_true, decide_eq_true_eq] at h ⊢
    exact ⟨⟨⟨by omega, h.1.1.2⟩, h.1.2⟩, h.2⟩

theorem Memory.canonicalFrom_consCell {a : Nat} {v : Byte} {m : Memory} {lo : Nat}
    (h : Memory.canonicalFrom p (a + 1) m = true) (hl : lo ≤ a) (ha : a < Config.memSize) :
    Memory.canonicalFrom p lo (Memory.consCell p a v m) = true := by
  unfold Memory.consCell
  split
  · exact Memory.canonicalFrom_mono h (by omega)
  · rename_i hv
    simp [Memory.canonicalFrom, hl, ha, h, hv]

/-- Reading a put cell's list: its own address gives its byte; others read the list. -/
theorem Memory.read_consCell {a b : Nat} {v : Byte} {m : Memory} (h : Memory.canonicalFrom p (a + 1) m = true) :
    (Memory.consCell p a v m).read p b = if b = a then v else m.read p b := by
  unfold Memory.consCell
  split
  · rename_i hv
    split
    · rename_i hb
      rw [hb, Memory.read_below h (by omega), hv]
    · rfl
  · rename_i hv
    by_cases hb : b = a
    · simp [Memory.read, hb]
    · by_cases hlt : b < a
      · simp [Memory.read, hlt, hb, Memory.read_below h (show b < a + 1 by omega)]
      · simp [Memory.read, hlt, hb]

/-- Every write keeps the canonical form. -/
theorem Memory.canonicalFrom_write {a : Nat} {v : Byte} (ha : a < Config.memSize) {m : Memory} {lo : Nat}
    (h : Memory.canonicalFrom p lo m = true) (hl : lo ≤ a) : Memory.canonicalFrom p lo (m.write p a v) = true := by
  induction m generalizing lo with
  | nil => exact Memory.canonicalFrom_consCell (m := []) rfl hl ha
  | cons c rest ih =>
    obtain ⟨k, w⟩ := c
    have h' := h
    simp only [Memory.canonicalFrom, Bool.and_eq_true, decide_eq_true_eq] at h'
    unfold Memory.write
    split
    · rename_i hk
      refine Memory.canonicalFrom_consCell ?_ hl ha
      simp only [Memory.canonicalFrom, Bool.and_eq_true, decide_eq_true_eq]
      exact ⟨⟨⟨by omega, h'.1.1.2⟩, h'.1.2⟩, h'.2⟩
    · split
      · rename_i hk
        exact Memory.canonicalFrom_consCell (hk ▸ h'.2) hl ha
      · simp only [Memory.canonicalFrom, Bool.and_eq_true, decide_eq_true_eq]
        exact ⟨h'.1, ih h'.2 (by omega)⟩

theorem Memory.wf_write {a : Nat} {v : Byte} {m : Memory} (ha : a < Config.memSize) (h : m.wf p = true) :
    (m.write p a v).wf p = true := Memory.canonicalFrom_write ha h (Nat.zero_le a)

theorem Memory.read_write_from {a b : Nat} {v : Byte} {m : Memory} {lo : Nat}
    (h : Memory.canonicalFrom p lo m = true) : (m.write p a v).read p b = if b = a then v else m.read p b := by
  induction m generalizing lo with
  | nil => exact Memory.read_consCell rfl
  | cons c rest ih =>
    obtain ⟨k, w⟩ := c
    have h' := h
    simp only [Memory.canonicalFrom, Bool.and_eq_true, decide_eq_true_eq] at h'
    unfold Memory.write
    split
    · rename_i hk
      refine Memory.read_consCell ?_
      simp only [Memory.canonicalFrom, Bool.and_eq_true, decide_eq_true_eq]
      exact ⟨⟨⟨by omega, h'.1.1.2⟩, h'.1.2⟩, h'.2⟩
    · split
      · rename_i hk
        rw [Memory.read_consCell (hk ▸ h'.2)]
        by_cases hb : b = a
        · simp [hb]
        · by_cases hlt : b < k
          · simp [Memory.read, hlt, hb, Memory.read_below h'.2 (show b < k + 1 by omega)]
          · simp [Memory.read, hlt, hb, show b ≠ k by omega]
      · rename_i hk hne
        by_cases hlt : b < k
        · simp [Memory.read, hlt, show b ≠ a by omega]
        · by_cases hbk : b = k
          · simp [Memory.read, hbk, show k ≠ a by omega]
          · simp [Memory.read, hlt, hbk, ih h'.2]

/-- Reading after a write: the byte written at its address, every other byte as before. -/
theorem Memory.read_write {a b : Nat} {v : Byte} {m : Memory} (h : m.wf p = true) :
    (m.write p a v).read p b = if b = a then v else m.read p b := Memory.read_write_from h

end Sys2Proof.Machine
end

