-- ==== Sys2Proof/Laws/State.lean ====
section
/-! SUPPORT. One lemma per field per update of the state, so that no later proof unfolds a record update. -/

namespace Sys2Proof.Machine

variable (s : State)

@[simp] theorem State.setReg_regs (r : RegIdx) (v : Byte) : (s.setReg r v).regs = s.regs.set r.val v := rfl
@[simp] theorem State.setReg_i (r : RegIdx) (v : Byte) : (s.setReg r v).i = s.i := rfl
@[simp] theorem State.setReg_pc (r : RegIdx) (v : Byte) : (s.setReg r v).pc = s.pc := rfl
@[simp] theorem State.setReg_sp (r : RegIdx) (v : Byte) : (s.setReg r v).sp = s.sp := rfl
@[simp] theorem State.setReg_stack (r : RegIdx) (v : Byte) : (s.setReg r v).stack = s.stack := rfl
@[simp] theorem State.setReg_mem (r : RegIdx) (v : Byte) : (s.setReg r v).mem = s.mem := rfl
@[simp] theorem State.setReg_fb (r : RegIdx) (v : Byte) : (s.setReg r v).fb = s.fb := rfl
@[simp] theorem State.setReg_mode (r : RegIdx) (v : Byte) : (s.setReg r v).mode = s.mode := rfl
@[simp] theorem State.setReg_haltCause (r : RegIdx) (v : Byte) : (s.setReg r v).haltCause = s.haltCause := rfl
@[simp] theorem State.setReg_haltInfo (r : RegIdx) (v : Byte) : (s.setReg r v).haltInfo = s.haltInfo := rfl
@[simp] theorem State.setReg_keyDest (r : RegIdx) (v : Byte) : (s.setReg r v).keyDest = s.keyDest := rfl
@[simp] theorem State.setReg_fbGrant (r : RegIdx) (v : Byte) : (s.setReg r v).fbGrant = s.fbGrant := rfl
@[simp] theorem State.setReg_keyInput (r : RegIdx) (v : Byte) : (s.setReg r v).keyInput = s.keyInput := rfl
@[simp] theorem State.setReg_keyPolls (r : RegIdx) (v : Byte) : (s.setReg r v).keyPolls = s.keyPolls := rfl
@[simp] theorem State.setReg_randInput (r : RegIdx) (v : Byte) : (s.setReg r v).randInput = s.randInput := rfl
@[simp] theorem State.setReg_params (r : RegIdx) (v : Byte) : (s.setReg r v).params = s.params := rfl
@[simp] theorem State.setReg_draws (r : RegIdx) (v : Byte) : (s.setReg r v).draws = s.draws := rfl
@[simp] theorem State.setReg_byteAt (r : RegIdx) (v : Byte) (a : Nat) : (s.setReg r v).byteAt a = s.byteAt a := rfl
@[simp] theorem State.setReg_stackEntry (r : RegIdx) (v : Byte) (k : Nat) : (s.setReg r v).stackEntry k = s.stackEntry k := rfl
@[simp] theorem State.setReg_keyReport (r : RegIdx) (v : Byte) : (s.setReg r v).keyReport = s.keyReport := rfl
@[simp] theorem State.setReg_randomByte (r : RegIdx) (v : Byte) : (s.setReg r v).randomByte = s.randomByte := rfl

@[simp] theorem State.fromArray_regs (bytes : Vector Byte 16) : (s.fromArray bytes).regs = bytes := rfl
@[simp] theorem State.fromArray_i (bytes : Vector Byte 16) : (s.fromArray bytes).i = s.i := rfl
@[simp] theorem State.fromArray_pc (bytes : Vector Byte 16) : (s.fromArray bytes).pc = s.pc := rfl
@[simp] theorem State.fromArray_sp (bytes : Vector Byte 16) : (s.fromArray bytes).sp = s.sp := rfl
@[simp] theorem State.fromArray_stack (bytes : Vector Byte 16) : (s.fromArray bytes).stack = s.stack := rfl
@[simp] theorem State.fromArray_mem (bytes : Vector Byte 16) : (s.fromArray bytes).mem = s.mem := rfl
@[simp] theorem State.fromArray_fb (bytes : Vector Byte 16) : (s.fromArray bytes).fb = s.fb := rfl
@[simp] theorem State.fromArray_mode (bytes : Vector Byte 16) : (s.fromArray bytes).mode = s.mode := rfl
@[simp] theorem State.fromArray_haltCause (bytes : Vector Byte 16) : (s.fromArray bytes).haltCause = s.haltCause := rfl
@[simp] theorem State.fromArray_haltInfo (bytes : Vector Byte 16) : (s.fromArray bytes).haltInfo = s.haltInfo := rfl
@[simp] theorem State.fromArray_keyDest (bytes : Vector Byte 16) : (s.fromArray bytes).keyDest = s.keyDest := rfl
@[simp] theorem State.fromArray_fbGrant (bytes : Vector Byte 16) : (s.fromArray bytes).fbGrant = s.fbGrant := rfl
@[simp] theorem State.fromArray_keyInput (bytes : Vector Byte 16) : (s.fromArray bytes).keyInput = s.keyInput := rfl
@[simp] theorem State.fromArray_keyPolls (bytes : Vector Byte 16) : (s.fromArray bytes).keyPolls = s.keyPolls := rfl
@[simp] theorem State.fromArray_randInput (bytes : Vector Byte 16) : (s.fromArray bytes).randInput = s.randInput := rfl
@[simp] theorem State.fromArray_params (bytes : Vector Byte 16) : (s.fromArray bytes).params = s.params := rfl
@[simp] theorem State.fromArray_draws (bytes : Vector Byte 16) : (s.fromArray bytes).draws = s.draws := rfl
@[simp] theorem State.fromArray_byteAt (bytes : Vector Byte 16) (a : Nat) : (s.fromArray bytes).byteAt a = s.byteAt a := rfl
@[simp] theorem State.fromArray_stackEntry (bytes : Vector Byte 16) (k : Nat) : (s.fromArray bytes).stackEntry k = s.stackEntry k := rfl
@[simp] theorem State.fromArray_keyReport (bytes : Vector Byte 16) : (s.fromArray bytes).keyReport = s.keyReport := rfl
@[simp] theorem State.fromArray_randomByte (bytes : Vector Byte 16) : (s.fromArray bytes).randomByte = s.randomByte := rfl

@[simp] theorem State.raise_regs (e : CoreError) : (s.raise e).regs = s.regs := rfl
@[simp] theorem State.raise_i (e : CoreError) : (s.raise e).i = s.i := rfl
@[simp] theorem State.raise_pc (e : CoreError) : (s.raise e).pc = s.pc := rfl
@[simp] theorem State.raise_sp (e : CoreError) : (s.raise e).sp = s.sp := rfl
@[simp] theorem State.raise_stack (e : CoreError) : (s.raise e).stack = s.stack := rfl
@[simp] theorem State.raise_mem (e : CoreError) : (s.raise e).mem = s.mem := rfl
@[simp] theorem State.raise_fb (e : CoreError) : (s.raise e).fb = s.fb := rfl
@[simp] theorem State.raise_mode (e : CoreError) : (s.raise e).mode = .halted := rfl
@[simp] theorem State.raise_haltCause (e : CoreError) : (s.raise e).haltCause = e.cause := rfl
@[simp] theorem State.raise_haltInfo (e : CoreError) : (s.raise e).haltInfo = e.info := rfl
@[simp] theorem State.raise_keyDest (e : CoreError) : (s.raise e).keyDest = s.keyDest := rfl
@[simp] theorem State.raise_fbGrant (e : CoreError) : (s.raise e).fbGrant = s.fbGrant := rfl
@[simp] theorem State.raise_keyInput (e : CoreError) : (s.raise e).keyInput = s.keyInput := rfl
@[simp] theorem State.raise_keyPolls (e : CoreError) : (s.raise e).keyPolls = s.keyPolls := rfl
@[simp] theorem State.raise_randInput (e : CoreError) : (s.raise e).randInput = s.randInput := rfl
@[simp] theorem State.raise_params (e : CoreError) : (s.raise e).params = s.params := rfl
@[simp] theorem State.raise_draws (e : CoreError) : (s.raise e).draws = s.draws := rfl
@[simp] theorem State.raise_byteAt (e : CoreError) (a : Nat) : (s.raise e).byteAt a = s.byteAt a := rfl
@[simp] theorem State.raise_stackEntry (e : CoreError) (k : Nat) : (s.raise e).stackEntry k = s.stackEntry k := rfl
@[simp] theorem State.raise_reg (e : CoreError) (q : RegIdx) : (s.raise e).reg q = s.reg q := rfl
@[simp] theorem State.raise_keyReport (e : CoreError) : (s.raise e).keyReport = s.keyReport := rfl
@[simp] theorem State.raise_randomByte (e : CoreError) : (s.raise e).randomByte = s.randomByte := rfl

@[simp] theorem State.softReset_regs : (s.softReset).regs = s.regs := rfl
@[simp] theorem State.softReset_i : (s.softReset).i = s.i := rfl
@[simp] theorem State.softReset_pc : (s.softReset).pc = Config.progBase := rfl
@[simp] theorem State.softReset_sp : (s.softReset).sp = 0 := rfl
@[simp] theorem State.softReset_stack : (s.softReset).stack = s.stack := rfl
@[simp] theorem State.softReset_mem : (s.softReset).mem = s.mem := rfl
@[simp] theorem State.softReset_fb : (s.softReset).fb = s.fb := rfl
@[simp] theorem State.softReset_mode : (s.softReset).mode = .running := rfl
@[simp] theorem State.softReset_haltCause : (s.softReset).haltCause = .noCause := rfl
@[simp] theorem State.softReset_haltInfo : (s.softReset).haltInfo = 0x0000#16 := rfl
@[simp] theorem State.softReset_keyDest : (s.softReset).keyDest = s.keyDest := rfl
@[simp] theorem State.softReset_fbGrant : (s.softReset).fbGrant = s.fbGrant := rfl
@[simp] theorem State.softReset_keyInput : (s.softReset).keyInput = s.keyInput := rfl
@[simp] theorem State.softReset_keyPolls : (s.softReset).keyPolls = s.keyPolls := rfl
@[simp] theorem State.softReset_randInput : (s.softReset).randInput = s.randInput := rfl
@[simp] theorem State.softReset_params : (s.softReset).params = s.params := rfl
@[simp] theorem State.softReset_draws : (s.softReset).draws = s.draws := rfl
@[simp] theorem State.softReset_byteAt (a : Nat) : (s.softReset).byteAt a = s.byteAt a := rfl
@[simp] theorem State.softReset_stackEntry (k : Nat) : (s.softReset).stackEntry k = s.stackEntry k := rfl
@[simp] theorem State.softReset_reg (q : RegIdx) : (s.softReset).reg q = s.reg q := rfl
@[simp] theorem State.softReset_keyReport : (s.softReset).keyReport = s.keyReport := rfl
@[simp] theorem State.softReset_randomByte : (s.softReset).randomByte = s.randomByte := rfl

@[simp] theorem State.setPc_regs (target : Addr) : (s.setPc target).regs = s.regs := rfl
@[simp] theorem State.setPc_i (target : Addr) : (s.setPc target).i = s.i := rfl
@[simp] theorem State.setPc_pc (target : Addr) : (s.setPc target).pc = target := rfl
@[simp] theorem State.setPc_sp (target : Addr) : (s.setPc target).sp = s.sp := rfl
@[simp] theorem State.setPc_stack (target : Addr) : (s.setPc target).stack = s.stack := rfl
@[simp] theorem State.setPc_mem (target : Addr) : (s.setPc target).mem = s.mem := rfl
@[simp] theorem State.setPc_fb (target : Addr) : (s.setPc target).fb = s.fb := rfl
@[simp] theorem State.setPc_mode (target : Addr) : (s.setPc target).mode = s.mode := rfl
@[simp] theorem State.setPc_haltCause (target : Addr) : (s.setPc target).haltCause = s.haltCause := rfl
@[simp] theorem State.setPc_haltInfo (target : Addr) : (s.setPc target).haltInfo = s.haltInfo := rfl
@[simp] theorem State.setPc_keyDest (target : Addr) : (s.setPc target).keyDest = s.keyDest := rfl
@[simp] theorem State.setPc_fbGrant (target : Addr) : (s.setPc target).fbGrant = s.fbGrant := rfl
@[simp] theorem State.setPc_keyInput (target : Addr) : (s.setPc target).keyInput = s.keyInput := rfl
@[simp] theorem State.setPc_keyPolls (target : Addr) : (s.setPc target).keyPolls = s.keyPolls := rfl
@[simp] theorem State.setPc_randInput (target : Addr) : (s.setPc target).randInput = s.randInput := rfl
@[simp] theorem State.setPc_params (target : Addr) : (s.setPc target).params = s.params := rfl
@[simp] theorem State.setPc_draws (target : Addr) : (s.setPc target).draws = s.draws := rfl
@[simp] theorem State.setPc_byteAt (target : Addr) (a : Nat) : (s.setPc target).byteAt a = s.byteAt a := rfl
@[simp] theorem State.setPc_stackEntry (target : Addr) (k : Nat) : (s.setPc target).stackEntry k = s.stackEntry k := rfl
@[simp] theorem State.setPc_reg (target : Addr) (q : RegIdx) : (s.setPc target).reg q = s.reg q := rfl
@[simp] theorem State.setPc_keyReport (target : Addr) : (s.setPc target).keyReport = s.keyReport := rfl
@[simp] theorem State.setPc_randomByte (target : Addr) : (s.setPc target).randomByte = s.randomByte := rfl

@[simp] theorem State.advancePc_regs : (s.advancePc).regs = s.regs := rfl
@[simp] theorem State.advancePc_i : (s.advancePc).i = s.i := rfl
@[simp] theorem State.advancePc_pc : (s.advancePc).pc = s.pc + 2#16 := rfl
@[simp] theorem State.advancePc_sp : (s.advancePc).sp = s.sp := rfl
@[simp] theorem State.advancePc_stack : (s.advancePc).stack = s.stack := rfl
@[simp] theorem State.advancePc_mem : (s.advancePc).mem = s.mem := rfl
@[simp] theorem State.advancePc_fb : (s.advancePc).fb = s.fb := rfl
@[simp] theorem State.advancePc_mode : (s.advancePc).mode = s.mode := rfl
@[simp] theorem State.advancePc_haltCause : (s.advancePc).haltCause = s.haltCause := rfl
@[simp] theorem State.advancePc_haltInfo : (s.advancePc).haltInfo = s.haltInfo := rfl
@[simp] theorem State.advancePc_keyDest : (s.advancePc).keyDest = s.keyDest := rfl
@[simp] theorem State.advancePc_fbGrant : (s.advancePc).fbGrant = s.fbGrant := rfl
@[simp] theorem State.advancePc_keyInput : (s.advancePc).keyInput = s.keyInput := rfl
@[simp] theorem State.advancePc_keyPolls : (s.advancePc).keyPolls = s.keyPolls := rfl
@[simp] theorem State.advancePc_randInput : (s.advancePc).randInput = s.randInput := rfl
@[simp] theorem State.advancePc_params : (s.advancePc).params = s.params := rfl
@[simp] theorem State.advancePc_draws : (s.advancePc).draws = s.draws := rfl
@[simp] theorem State.advancePc_byteAt (a : Nat) : (s.advancePc).byteAt a = s.byteAt a := rfl
@[simp] theorem State.advancePc_stackEntry (k : Nat) : (s.advancePc).stackEntry k = s.stackEntry k := rfl
@[simp] theorem State.advancePc_reg (q : RegIdx) : (s.advancePc).reg q = s.reg q := rfl
@[simp] theorem State.advancePc_keyReport : (s.advancePc).keyReport = s.keyReport := rfl
@[simp] theorem State.advancePc_randomByte : (s.advancePc).randomByte = s.randomByte := rfl

@[simp] theorem State.setIndex_regs (v : Addr) : (s.setIndex v).regs = s.regs := rfl
@[simp] theorem State.setIndex_i (v : Addr) : (s.setIndex v).i = v := rfl
@[simp] theorem State.setIndex_pc (v : Addr) : (s.setIndex v).pc = s.pc := rfl
@[simp] theorem State.setIndex_sp (v : Addr) : (s.setIndex v).sp = s.sp := rfl
@[simp] theorem State.setIndex_stack (v : Addr) : (s.setIndex v).stack = s.stack := rfl
@[simp] theorem State.setIndex_mem (v : Addr) : (s.setIndex v).mem = s.mem := rfl
@[simp] theorem State.setIndex_fb (v : Addr) : (s.setIndex v).fb = s.fb := rfl
@[simp] theorem State.setIndex_mode (v : Addr) : (s.setIndex v).mode = s.mode := rfl
@[simp] theorem State.setIndex_haltCause (v : Addr) : (s.setIndex v).haltCause = s.haltCause := rfl
@[simp] theorem State.setIndex_haltInfo (v : Addr) : (s.setIndex v).haltInfo = s.haltInfo := rfl
@[simp] theorem State.setIndex_keyDest (v : Addr) : (s.setIndex v).keyDest = s.keyDest := rfl
@[simp] theorem State.setIndex_fbGrant (v : Addr) : (s.setIndex v).fbGrant = s.fbGrant := rfl
@[simp] theorem State.setIndex_keyInput (v : Addr) : (s.setIndex v).keyInput = s.keyInput := rfl
@[simp] theorem State.setIndex_keyPolls (v : Addr) : (s.setIndex v).keyPolls = s.keyPolls := rfl
@[simp] theorem State.setIndex_randInput (v : Addr) : (s.setIndex v).randInput = s.randInput := rfl
@[simp] theorem State.setIndex_params (v : Addr) : (s.setIndex v).params = s.params := rfl
@[simp] theorem State.setIndex_draws (v : Addr) : (s.setIndex v).draws = s.draws := rfl
@[simp] theorem State.setIndex_byteAt (v : Addr) (a : Nat) : (s.setIndex v).byteAt a = s.byteAt a := rfl
@[simp] theorem State.setIndex_stackEntry (v : Addr) (k : Nat) : (s.setIndex v).stackEntry k = s.stackEntry k := rfl
@[simp] theorem State.setIndex_reg (v : Addr) (q : RegIdx) : (s.setIndex v).reg q = s.reg q := rfl
@[simp] theorem State.setIndex_keyReport (v : Addr) : (s.setIndex v).keyReport = s.keyReport := rfl
@[simp] theorem State.setIndex_randomByte (v : Addr) : (s.setIndex v).randomByte = s.randomByte := rfl

@[simp] theorem State.acquireFb_regs : (s.acquireFb).regs = s.regs := rfl
@[simp] theorem State.acquireFb_i : (s.acquireFb).i = s.i := rfl
@[simp] theorem State.acquireFb_pc : (s.acquireFb).pc = s.pc := rfl
@[simp] theorem State.acquireFb_sp : (s.acquireFb).sp = s.sp := rfl
@[simp] theorem State.acquireFb_stack : (s.acquireFb).stack = s.stack := rfl
@[simp] theorem State.acquireFb_mem : (s.acquireFb).mem = s.mem := rfl
@[simp] theorem State.acquireFb_fb : (s.acquireFb).fb = s.fb := rfl
@[simp] theorem State.acquireFb_mode : (s.acquireFb).mode = s.mode := rfl
@[simp] theorem State.acquireFb_haltCause : (s.acquireFb).haltCause = s.haltCause := rfl
@[simp] theorem State.acquireFb_haltInfo : (s.acquireFb).haltInfo = s.haltInfo := rfl
@[simp] theorem State.acquireFb_keyDest : (s.acquireFb).keyDest = s.keyDest := rfl
@[simp] theorem State.acquireFb_fbGrant : (s.acquireFb).fbGrant = .core := rfl
@[simp] theorem State.acquireFb_keyInput : (s.acquireFb).keyInput = s.keyInput := rfl
@[simp] theorem State.acquireFb_keyPolls : (s.acquireFb).keyPolls = s.keyPolls := rfl
@[simp] theorem State.acquireFb_randInput : (s.acquireFb).randInput = s.randInput := rfl
@[simp] theorem State.acquireFb_params : (s.acquireFb).params = s.params := rfl
@[simp] theorem State.acquireFb_draws : (s.acquireFb).draws = s.draws := rfl
@[simp] theorem State.acquireFb_byteAt (a : Nat) : (s.acquireFb).byteAt a = s.byteAt a := rfl
@[simp] theorem State.acquireFb_stackEntry (k : Nat) : (s.acquireFb).stackEntry k = s.stackEntry k := rfl
@[simp] theorem State.acquireFb_reg (q : RegIdx) : (s.acquireFb).reg q = s.reg q := rfl
@[simp] theorem State.acquireFb_keyReport : (s.acquireFb).keyReport = s.keyReport := rfl
@[simp] theorem State.acquireFb_randomByte : (s.acquireFb).randomByte = s.randomByte := rfl

@[simp] theorem State.releaseFb_regs : (s.releaseFb).regs = s.regs := rfl
@[simp] theorem State.releaseFb_i : (s.releaseFb).i = s.i := rfl
@[simp] theorem State.releaseFb_pc : (s.releaseFb).pc = s.pc := rfl
@[simp] theorem State.releaseFb_sp : (s.releaseFb).sp = s.sp := rfl
@[simp] theorem State.releaseFb_stack : (s.releaseFb).stack = s.stack := rfl
@[simp] theorem State.releaseFb_mem : (s.releaseFb).mem = s.mem := rfl
@[simp] theorem State.releaseFb_fb : (s.releaseFb).fb = s.fb := rfl
@[simp] theorem State.releaseFb_mode : (s.releaseFb).mode = s.mode := rfl
@[simp] theorem State.releaseFb_haltCause : (s.releaseFb).haltCause = s.haltCause := rfl
@[simp] theorem State.releaseFb_haltInfo : (s.releaseFb).haltInfo = s.haltInfo := rfl
@[simp] theorem State.releaseFb_keyDest : (s.releaseFb).keyDest = s.keyDest := rfl
@[simp] theorem State.releaseFb_fbGrant : (s.releaseFb).fbGrant = .nobody := rfl
@[simp] theorem State.releaseFb_keyInput : (s.releaseFb).keyInput = s.keyInput := rfl
@[simp] theorem State.releaseFb_keyPolls : (s.releaseFb).keyPolls = s.keyPolls := rfl
@[simp] theorem State.releaseFb_randInput : (s.releaseFb).randInput = s.randInput := rfl
@[simp] theorem State.releaseFb_params : (s.releaseFb).params = s.params := rfl
@[simp] theorem State.releaseFb_draws : (s.releaseFb).draws = s.draws := rfl
@[simp] theorem State.releaseFb_byteAt (a : Nat) : (s.releaseFb).byteAt a = s.byteAt a := rfl
@[simp] theorem State.releaseFb_stackEntry (k : Nat) : (s.releaseFb).stackEntry k = s.stackEntry k := rfl
@[simp] theorem State.releaseFb_reg (q : RegIdx) : (s.releaseFb).reg q = s.reg q := rfl
@[simp] theorem State.releaseFb_keyReport : (s.releaseFb).keyReport = s.keyReport := rfl
@[simp] theorem State.releaseFb_randomByte : (s.releaseFb).randomByte = s.randomByte := rfl

@[simp] theorem State.setFb_regs (fb : Framebuffer) : (s.setFb fb).regs = s.regs := rfl
@[simp] theorem State.setFb_i (fb : Framebuffer) : (s.setFb fb).i = s.i := rfl
@[simp] theorem State.setFb_pc (fb : Framebuffer) : (s.setFb fb).pc = s.pc := rfl
@[simp] theorem State.setFb_sp (fb : Framebuffer) : (s.setFb fb).sp = s.sp := rfl
@[simp] theorem State.setFb_stack (fb : Framebuffer) : (s.setFb fb).stack = s.stack := rfl
@[simp] theorem State.setFb_mem (fb : Framebuffer) : (s.setFb fb).mem = s.mem := rfl
@[simp] theorem State.setFb_fb (fb : Framebuffer) : (s.setFb fb).fb = fb := rfl
@[simp] theorem State.setFb_mode (fb : Framebuffer) : (s.setFb fb).mode = s.mode := rfl
@[simp] theorem State.setFb_haltCause (fb : Framebuffer) : (s.setFb fb).haltCause = s.haltCause := rfl
@[simp] theorem State.setFb_haltInfo (fb : Framebuffer) : (s.setFb fb).haltInfo = s.haltInfo := rfl
@[simp] theorem State.setFb_keyDest (fb : Framebuffer) : (s.setFb fb).keyDest = s.keyDest := rfl
@[simp] theorem State.setFb_fbGrant (fb : Framebuffer) : (s.setFb fb).fbGrant = s.fbGrant := rfl
@[simp] theorem State.setFb_keyInput (fb : Framebuffer) : (s.setFb fb).keyInput = s.keyInput := rfl
@[simp] theorem State.setFb_keyPolls (fb : Framebuffer) : (s.setFb fb).keyPolls = s.keyPolls := rfl
@[simp] theorem State.setFb_randInput (fb : Framebuffer) : (s.setFb fb).randInput = s.randInput := rfl
@[simp] theorem State.setFb_params (fb : Framebuffer) : (s.setFb fb).params = s.params := rfl
@[simp] theorem State.setFb_draws (fb : Framebuffer) : (s.setFb fb).draws = s.draws := rfl
@[simp] theorem State.setFb_byteAt (fb : Framebuffer) (a : Nat) : (s.setFb fb).byteAt a = s.byteAt a := rfl
@[simp] theorem State.setFb_stackEntry (fb : Framebuffer) (k : Nat) : (s.setFb fb).stackEntry k = s.stackEntry k := rfl
@[simp] theorem State.setFb_reg (fb : Framebuffer) (q : RegIdx) : (s.setFb fb).reg q = s.reg q := rfl
@[simp] theorem State.setFb_keyReport (fb : Framebuffer) : (s.setFb fb).keyReport = s.keyReport := rfl
@[simp] theorem State.setFb_randomByte (fb : Framebuffer) : (s.setFb fb).randomByte = s.randomByte := rfl

@[simp] theorem State.pollKey_regs : (s.pollKey).regs = s.regs := rfl
@[simp] theorem State.pollKey_i : (s.pollKey).i = s.i := rfl
@[simp] theorem State.pollKey_pc : (s.pollKey).pc = s.pc := rfl
@[simp] theorem State.pollKey_sp : (s.pollKey).sp = s.sp := rfl
@[simp] theorem State.pollKey_stack : (s.pollKey).stack = s.stack := rfl
@[simp] theorem State.pollKey_mem : (s.pollKey).mem = s.mem := rfl
@[simp] theorem State.pollKey_fb : (s.pollKey).fb = s.fb := rfl
@[simp] theorem State.pollKey_mode : (s.pollKey).mode = s.mode := rfl
@[simp] theorem State.pollKey_haltCause : (s.pollKey).haltCause = s.haltCause := rfl
@[simp] theorem State.pollKey_haltInfo : (s.pollKey).haltInfo = s.haltInfo := rfl
@[simp] theorem State.pollKey_keyDest : (s.pollKey).keyDest = s.keyDest := rfl
@[simp] theorem State.pollKey_fbGrant : (s.pollKey).fbGrant = s.fbGrant := rfl
@[simp] theorem State.pollKey_keyInput : (s.pollKey).keyInput = s.keyInput.tail := rfl
@[simp] theorem State.pollKey_keyPolls : (s.pollKey).keyPolls = s.keyPolls + 1 := rfl
@[simp] theorem State.pollKey_randInput : (s.pollKey).randInput = s.randInput := rfl
@[simp] theorem State.pollKey_params : (s.pollKey).params = s.params := rfl
@[simp] theorem State.pollKey_draws : (s.pollKey).draws = s.draws := rfl
@[simp] theorem State.pollKey_byteAt (a : Nat) : (s.pollKey).byteAt a = s.byteAt a := rfl
@[simp] theorem State.pollKey_stackEntry (k : Nat) : (s.pollKey).stackEntry k = s.stackEntry k := rfl
@[simp] theorem State.pollKey_reg (q : RegIdx) : (s.pollKey).reg q = s.reg q := rfl
@[simp] theorem State.pollKey_randomByte : (s.pollKey).randomByte = s.randomByte := rfl

@[simp] theorem State.takeRandom_regs : (s.takeRandom).regs = s.regs := rfl
@[simp] theorem State.takeRandom_i : (s.takeRandom).i = s.i := rfl
@[simp] theorem State.takeRandom_pc : (s.takeRandom).pc = s.pc := rfl
@[simp] theorem State.takeRandom_sp : (s.takeRandom).sp = s.sp := rfl
@[simp] theorem State.takeRandom_stack : (s.takeRandom).stack = s.stack := rfl
@[simp] theorem State.takeRandom_mem : (s.takeRandom).mem = s.mem := rfl
@[simp] theorem State.takeRandom_fb : (s.takeRandom).fb = s.fb := rfl
@[simp] theorem State.takeRandom_mode : (s.takeRandom).mode = s.mode := rfl
@[simp] theorem State.takeRandom_haltCause : (s.takeRandom).haltCause = s.haltCause := rfl
@[simp] theorem State.takeRandom_haltInfo : (s.takeRandom).haltInfo = s.haltInfo := rfl
@[simp] theorem State.takeRandom_keyDest : (s.takeRandom).keyDest = s.keyDest := rfl
@[simp] theorem State.takeRandom_fbGrant : (s.takeRandom).fbGrant = s.fbGrant := rfl
@[simp] theorem State.takeRandom_keyInput : (s.takeRandom).keyInput = s.keyInput := rfl
@[simp] theorem State.takeRandom_keyPolls : (s.takeRandom).keyPolls = s.keyPolls := rfl
@[simp] theorem State.takeRandom_randInput : (s.takeRandom).randInput = s.randInput.tail := rfl
@[simp] theorem State.takeRandom_params : (s.takeRandom).params = s.params := rfl
@[simp] theorem State.takeRandom_draws : (s.takeRandom).draws = s.draws + 1 := rfl
@[simp] theorem State.takeRandom_byteAt (a : Nat) : (s.takeRandom).byteAt a = s.byteAt a := rfl
@[simp] theorem State.takeRandom_stackEntry (k : Nat) : (s.takeRandom).stackEntry k = s.stackEntry k := rfl
@[simp] theorem State.takeRandom_reg (q : RegIdx) : (s.takeRandom).reg q = s.reg q := rfl
@[simp] theorem State.takeRandom_keyReport : (s.takeRandom).keyReport = s.keyReport := rfl

/-- A register write read back at any register. -/
theorem State.reg_setReg (r q : RegIdx) (v : Byte) : (s.setReg r v).reg q = if q = r then v else s.reg q := by
  unfold State.reg State.setReg
  simp only [Vector.getElem_set]
  by_cases h : q = r
  · simp [h]
  · have h' : r.val ≠ q.val := fun e => h (Fin.ext e.symm)
    simp [h, h']

@[simp] theorem State.reg_setReg_same (r : RegIdx) (v : Byte) : (s.setReg r v).reg r = v := by
  simp [State.reg_setReg]

theorem State.reg_setReg_ne {r q : RegIdx} (v : Byte) (h : q ≠ r) : (s.setReg r v).reg q = s.reg q := by
  simp [State.reg_setReg, h]

/-- The flag write and the result write, read back at any register (43_register_alu.md R149). -/
theorem State.reg_setFlagThenReg (flag : Bool) (x q : RegIdx) (v : Byte) :
    (s.setFlagThenReg flag x v).reg q = if q = x then v else if q = vf then flagByte flag else s.reg q := by
  simp [State.setFlagThenReg, State.reg_setReg]

@[simp] theorem State.setFlagThenReg_i (flag : Bool) (x : RegIdx) (v : Byte) : (s.setFlagThenReg flag x v).i = s.i := rfl
@[simp] theorem State.setFlagThenReg_pc (flag : Bool) (x : RegIdx) (v : Byte) : (s.setFlagThenReg flag x v).pc = s.pc := rfl
@[simp] theorem State.setFlagThenReg_sp (flag : Bool) (x : RegIdx) (v : Byte) : (s.setFlagThenReg flag x v).sp = s.sp := rfl
@[simp] theorem State.setFlagThenReg_stack (flag : Bool) (x : RegIdx) (v : Byte) : (s.setFlagThenReg flag x v).stack = s.stack := rfl
@[simp] theorem State.setFlagThenReg_mem (flag : Bool) (x : RegIdx) (v : Byte) : (s.setFlagThenReg flag x v).mem = s.mem := rfl
@[simp] theorem State.setFlagThenReg_fb (flag : Bool) (x : RegIdx) (v : Byte) : (s.setFlagThenReg flag x v).fb = s.fb := rfl
@[simp] theorem State.setFlagThenReg_mode (flag : Bool) (x : RegIdx) (v : Byte) : (s.setFlagThenReg flag x v).mode = s.mode := rfl
@[simp] theorem State.setFlagThenReg_haltCause (flag : Bool) (x : RegIdx) (v : Byte) : (s.setFlagThenReg flag x v).haltCause = s.haltCause := rfl
@[simp] theorem State.setFlagThenReg_haltInfo (flag : Bool) (x : RegIdx) (v : Byte) : (s.setFlagThenReg flag x v).haltInfo = s.haltInfo := rfl
@[simp] theorem State.setFlagThenReg_keyDest (flag : Bool) (x : RegIdx) (v : Byte) : (s.setFlagThenReg flag x v).keyDest = s.keyDest := rfl
@[simp] theorem State.setFlagThenReg_fbGrant (flag : Bool) (x : RegIdx) (v : Byte) : (s.setFlagThenReg flag x v).fbGrant = s.fbGrant := rfl
@[simp] theorem State.setFlagThenReg_keyInput (flag : Bool) (x : RegIdx) (v : Byte) : (s.setFlagThenReg flag x v).keyInput = s.keyInput := rfl
@[simp] theorem State.setFlagThenReg_keyPolls (flag : Bool) (x : RegIdx) (v : Byte) : (s.setFlagThenReg flag x v).keyPolls = s.keyPolls := rfl
@[simp] theorem State.setFlagThenReg_randInput (flag : Bool) (x : RegIdx) (v : Byte) : (s.setFlagThenReg flag x v).randInput = s.randInput := rfl
@[simp] theorem State.setFlagThenReg_params (flag : Bool) (x : RegIdx) (v : Byte) : (s.setFlagThenReg flag x v).params = s.params := rfl
@[simp] theorem State.setFlagThenReg_draws (flag : Bool) (x : RegIdx) (v : Byte) : (s.setFlagThenReg flag x v).draws = s.draws := rfl
@[simp] theorem State.setFlagThenReg_byteAt (flag : Bool) (x : RegIdx) (v : Byte) (a : Nat) : (s.setFlagThenReg flag x v).byteAt a = s.byteAt a := rfl
@[simp] theorem State.setFlagThenReg_stackEntry (flag : Bool) (x : RegIdx) (v : Byte) (k : Nat) : (s.setFlagThenReg flag x v).stackEntry k = s.stackEntry k := rfl

@[simp] theorem State.putByte_params (a : Nat) (v : Byte) : (s.putByte a v).params = s.params := rfl
@[simp] theorem State.putByte_regs (a : Nat) (v : Byte) : (s.putByte a v).regs = s.regs := rfl
@[simp] theorem State.putByte_i (a : Nat) (v : Byte) : (s.putByte a v).i = s.i := rfl
@[simp] theorem State.putByte_pc (a : Nat) (v : Byte) : (s.putByte a v).pc = s.pc := rfl
@[simp] theorem State.putByte_sp (a : Nat) (v : Byte) : (s.putByte a v).sp = s.sp := rfl
@[simp] theorem State.putByte_stack (a : Nat) (v : Byte) : (s.putByte a v).stack = s.stack := rfl
@[simp] theorem State.putByte_fb (a : Nat) (v : Byte) : (s.putByte a v).fb = s.fb := rfl
@[simp] theorem State.putByte_mode (a : Nat) (v : Byte) : (s.putByte a v).mode = s.mode := rfl
@[simp] theorem State.putByte_haltCause (a : Nat) (v : Byte) : (s.putByte a v).haltCause = s.haltCause := rfl
@[simp] theorem State.putByte_haltInfo (a : Nat) (v : Byte) : (s.putByte a v).haltInfo = s.haltInfo := rfl
@[simp] theorem State.putByte_keyDest (a : Nat) (v : Byte) : (s.putByte a v).keyDest = s.keyDest := rfl
@[simp] theorem State.putByte_fbGrant (a : Nat) (v : Byte) : (s.putByte a v).fbGrant = s.fbGrant := rfl
@[simp] theorem State.putByte_keyInput (a : Nat) (v : Byte) : (s.putByte a v).keyInput = s.keyInput := rfl
@[simp] theorem State.putByte_keyPolls (a : Nat) (v : Byte) : (s.putByte a v).keyPolls = s.keyPolls := rfl
@[simp] theorem State.putByte_randInput (a : Nat) (v : Byte) : (s.putByte a v).randInput = s.randInput := rfl
@[simp] theorem State.putByte_draws (a : Nat) (v : Byte) : (s.putByte a v).draws = s.draws := rfl
@[simp] theorem State.putByte_mem (a : Nat) (v : Byte) : (s.putByte a v).mem = s.mem.write s.params a v := rfl
@[simp] theorem State.putByte_reg (a : Nat) (v : Byte) (q : RegIdx) : (s.putByte a v).reg q = s.reg q := rfl
@[simp] theorem State.putByte_stackEntry (a : Nat) (v : Byte) (k : Nat) : (s.putByte a v).stackEntry k = s.stackEntry k := rfl
@[simp] theorem State.putByte_keyReport (a : Nat) (v : Byte) : (s.putByte a v).keyReport = s.keyReport := rfl
@[simp] theorem State.putByte_randomByte (a : Nat) (v : Byte) : (s.putByte a v).randomByte = s.randomByte := rfl

/-- Storing bytes changes memory alone. -/
theorem State.putBytes_eq (a : Nat) (bytes : List Byte) : s.putBytes a bytes = { s with mem := (s.putBytes a bytes).mem } := by
  induction bytes generalizing s a with
  | nil => rfl
  | cons b bs ih =>
    have h := ih (s.putByte a b) (a + 1)
    exact h

@[simp] theorem State.putBytes_params (a : Nat) (bytes : List Byte) : (s.putBytes a bytes).params = s.params := by
  rw [State.putBytes_eq]
@[simp] theorem State.putBytes_regs (a : Nat) (bytes : List Byte) : (s.putBytes a bytes).regs = s.regs := by
  rw [State.putBytes_eq]
@[simp] theorem State.putBytes_i (a : Nat) (bytes : List Byte) : (s.putBytes a bytes).i = s.i := by
  rw [State.putBytes_eq]
@[simp] theorem State.putBytes_pc (a : Nat) (bytes : List Byte) : (s.putBytes a bytes).pc = s.pc := by
  rw [State.putBytes_eq]
@[simp] theorem State.putBytes_sp (a : Nat) (bytes : List Byte) : (s.putBytes a bytes).sp = s.sp := by
  rw [State.putBytes_eq]
@[simp] theorem State.putBytes_stack (a : Nat) (bytes : List Byte) : (s.putBytes a bytes).stack = s.stack := by
  rw [State.putBytes_eq]
@[simp] theorem State.putBytes_fb (a : Nat) (bytes : List Byte) : (s.putBytes a bytes).fb = s.fb := by
  rw [State.putBytes_eq]
@[simp] theorem State.putBytes_mode (a : Nat) (bytes : List Byte) : (s.putBytes a bytes).mode = s.mode := by
  rw [State.putBytes_eq]
@[simp] theorem State.putBytes_haltCause (a : Nat) (bytes : List Byte) : (s.putBytes a bytes).haltCause = s.haltCause := by
  rw [State.putBytes_eq]
@[simp] theorem State.putBytes_haltInfo (a : Nat) (bytes : List Byte) : (s.putBytes a bytes).haltInfo = s.haltInfo := by
  rw [State.putBytes_eq]
@[simp] theorem State.putBytes_keyDest (a : Nat) (bytes : List Byte) : (s.putBytes a bytes).keyDest = s.keyDest := by
  rw [State.putBytes_eq]
@[simp] theorem State.putBytes_fbGrant (a : Nat) (bytes : List Byte) : (s.putBytes a bytes).fbGrant = s.fbGrant := by
  rw [State.putBytes_eq]
@[simp] theorem State.putBytes_keyInput (a : Nat) (bytes : List Byte) : (s.putBytes a bytes).keyInput = s.keyInput := by
  rw [State.putBytes_eq]
@[simp] theorem State.putBytes_keyPolls (a : Nat) (bytes : List Byte) : (s.putBytes a bytes).keyPolls = s.keyPolls := by
  rw [State.putBytes_eq]
@[simp] theorem State.putBytes_randInput (a : Nat) (bytes : List Byte) : (s.putBytes a bytes).randInput = s.randInput := by
  rw [State.putBytes_eq]
@[simp] theorem State.putBytes_draws (a : Nat) (bytes : List Byte) : (s.putBytes a bytes).draws = s.draws := by
  rw [State.putBytes_eq]
@[simp] theorem State.putBytes_reg (a : Nat) (bytes : List Byte) (q : RegIdx) : (s.putBytes a bytes).reg q = s.reg q := by
  rw [State.putBytes_eq]
  rfl
@[simp] theorem State.putBytes_stackEntry (a : Nat) (bytes : List Byte) (k : Nat) :
    (s.putBytes a bytes).stackEntry k = s.stackEntry k := by
  rw [State.putBytes_eq]
  rfl

/-- Storing bytes and setting `I` do not interfere. -/
theorem State.putBytes_setIndex (a : Nat) (bytes : List Byte) (v : Addr) :
    (s.setIndex v).putBytes a bytes = (s.putBytes a bytes).setIndex v := by
  induction bytes generalizing s a with
  | nil => rfl
  | cons b bs ih => exact ih (s.putByte a b) (a + 1)

theorem State.skipIf_eq (c : Bool) : s.skipIf c = s.setPc (if c then s.pc + 2#16 else s.pc) := by
  cases c <;> rfl

end Sys2Proof.Machine
end

