-- ==== Sys2Proof/Laws/Ops.lean ====
section
/-! SUPPORT. One lemma per shared operation that says everything it can do; later proofs cite these. -/

namespace Sys2Proof.Machine

variable (s : State)

theorem State.getByte_ok {a : Nat} (h : a < Config.memSize) : s.getByte a = .ok (s.byteAt a) := if_pos h

theorem State.getByte_error {a : Nat} (h : Config.memSize ≤ a) :
    s.getByte a = .error (.memoryOutOfBounds (BitVec.ofNat 16 a)) := if_neg (Nat.not_lt.2 h)

theorem State.setByte_ok {a : Nat} (v : Byte) (h : a < Config.memSize) :
    s.setByte a v = .ok (s.putByte a v) := if_pos h

theorem State.setByte_error {a : Nat} (v : Byte) (h : Config.memSize ≤ a) :
    s.setByte a v = .error (.memoryOutOfBounds (BitVec.ofNat 16 a)) := if_neg (Nat.not_lt.2 h)

theorem State.getWord_ok {a : Nat} (h : a + 2 ≤ Config.memSize) :
    s.getWord a = .ok (ofBytes (s.byteAt a) (s.byteAt (a + 1))) := if_pos h

theorem State.getWord_error {a : Nat} (h : Config.memSize < a + 2) :
    s.getWord a = .error (.memoryOutOfBounds (BitVec.ofNat 16 a)) := if_neg (Nat.not_le.2 h)

/-- Fetch, both ways it can end (40_execute_cycle.md R101). -/
theorem State.fetch_eq :
    s.fetch = if s.pc.toNat + 2 ≤ Config.memSize
      then .ok (ofBytes (s.byteAt s.pc.toNat) (s.byteAt (s.pc.toNat + 1)), s.advancePc)
      else .error (.memoryOutOfBounds s.pc) := by
  unfold State.fetch
  split
  · rename_i h
    by_cases hb : s.pc.toNat + 2 ≤ Config.memSize
    · rw [State.getWord_ok s hb] at h
      rw [if_pos hb, Except.ok.inj h]
    · rw [State.getWord_error s (by omega)] at h
      cases h
  · rename_i h
    by_cases hb : s.pc.toNat + 2 ≤ Config.memSize
    · rw [State.getWord_ok s hb] at h
      cases h
    · rw [State.getWord_error s (by omega), BitVec.ofNat_toNat, BitVec.setWidth_eq] at h
      rw [if_neg hb, ← Except.error.inj h]

/-- A push below capacity (42_control_flow.md R123). -/
theorem State.push_ok (h : s.sp < s.params.stackDepth) :
    s.push = .ok { s with stack := s.stack.set s.sp s.pc, sp := s.sp + 1 } := if_pos h

theorem State.push_full (h : s.params.stackDepth ≤ s.sp) : s.push = .error .stackOverflow := if_neg (Nat.not_lt.2 h)

/-- A pop of a stack that is not empty (42_control_flow.md R124). -/
theorem State.popPc_ok (h : s.sp ≠ 0) : s.popPc = .ok { s with sp := s.sp - 1, pc := s.stackEntry (s.sp - 1) } :=
  if_neg h

theorem State.popPc_empty (h : s.sp = 0) : s.popPc = .error .stackUnderflow := if_pos h

/-- One stored stack entry read back, inside the array (10_state.md R28). -/
theorem stackEntry_set {stack : List Addr} {k j : Nat} {v : Addr} (h : k < stack.length) :
    (stack.set k v).getD j 0x0000#16 = if j = k then v else stack.getD j 0x0000#16 := by
  rw [List.getD_eq_getElem?_getD, List.getElem?_set, List.getD_eq_getElem?_getD]
  by_cases hj : j = k
  · simp [hj, h]
  · simp [hj, Ne.symm hj]

/-- A stored byte read back: its own address gives it, every other byte is as before (20_memory.md R51). -/
theorem State.byteAt_putByte {a b : Nat} {v : Byte} (h : s.mem.wf s.params = true) :
    (s.putByte a v).byteAt b = if b = a then v else s.byteAt b := Memory.read_write h

theorem State.wf_putByte {a : Nat} {v : Byte} (ha : a < Config.memSize) (h : s.mem.wf s.params = true) :
    (s.putByte a v).mem.wf s.params = true := Memory.wf_write ha h

/-- A copy of bytes inside memory keeps the canonical form (20_memory.md R64). -/
theorem State.wf_putBytes {bytes : List Byte} {a : Nat} {s : State} (ha : a + bytes.length ≤ Config.memSize)
    (h : s.mem.wf s.params = true) : (s.putBytes a bytes).mem.wf s.params = true := by
  induction bytes generalizing a s with
  | nil => exact h
  | cons b bs ih =>
    simp only [List.length_cons] at ha
    exact ih (s := s.putByte a b) (by omega) (s.wf_putByte (by omega) h)

/-- Copied bytes read back: the bytes in their range, every other byte as before (20_memory.md R64). -/
theorem State.byteAt_putBytes {bytes : List Byte} {a b : Nat} {s : State} (ha : a + bytes.length ≤ Config.memSize)
    (h : s.mem.wf s.params = true) :
    (s.putBytes a bytes).byteAt b =
      if a ≤ b ∧ b < a + bytes.length then bytes.getD (b - a) 0x00#8 else s.byteAt b := by
  induction bytes generalizing a s with
  | nil => simp [State.putBytes, show ¬(a ≤ b ∧ b < a) by omega]
  | cons c bs ih =>
    simp only [List.length_cons] at ha ⊢
    rw [State.putBytes, ih (s := s.putByte a c) (by omega) (s.wf_putByte (by omega) h), s.byteAt_putByte h]
    by_cases hb : b = a
    · simp [hb]
    · by_cases hin : a + 1 ≤ b ∧ b < a + 1 + bs.length
      · rw [if_pos hin, if_pos (by omega), show b - a = (b - (a + 1)) + 1 by omega, List.getD_cons_succ]
      · rw [if_neg hin, if_neg hb, if_neg (by omega)]

/-- The row loop of Draw: the rows whose byte can be read are drawn, and the first refused one raises
(41_display.md R111 to R114). -/
theorem State.drawRows_spec (x0 y0 : Nat) (n row : Nat) (s : State) :
    ∃ fb' : Framebuffer,
      (∀ (x : Fin Config.fbWidth) (y : Fin Config.fbHeight), fb'.cell x y =
        if y0 + row ≤ y.val ∧ y.val < y0 + row + min n (Config.memSize - (s.i.toNat + row)) ∧
            x0 ≤ x.val ∧ x.val < x0 + 8
        then spriteBit (s.byteAt (s.i.toNat + (y.val - y0))) (x.val - x0) else s.fb.cell x y) ∧
      State.drawRows x0 y0 n row s =
        if n = 0 ∨ s.i.toNat + row + n ≤ Config.memSize then s.setFb fb'
        else (s.setFb fb').raise (.memoryOutOfBounds (BitVec.ofNat 16 (max (s.i.toNat + row) Config.memSize))) := by
  induction n generalizing row s with
  | zero =>
    refine ⟨s.fb, fun x y => ?_, ?_⟩
    · rw [if_neg (by omega)]
    · simp [State.drawRows, State.setFb]
  | succ n ih =>
    by_cases hb : s.i.toNat + row < Config.memSize
    · obtain ⟨fb', hcell, heq⟩ := ih (row + 1)
        (s.setFb (s.fb.drawByte s.params.drawOffscreen (s.byteAt (s.i.toNat + row)) x0 (y0 + row)))
      refine ⟨fb', fun x y => ?_, ?_⟩
      · rw [hcell]
        simp only [State.setFb_i, State.setFb_byteAt, State.setFb_fb, Framebuffer.cell_drawByte]
        by_cases hx : x0 ≤ x.val ∧ x.val < x0 + 8
        · by_cases hy : y.val = y0 + row
          · rw [if_neg (by omega), if_pos ⟨hy, hx⟩, if_pos (by omega), hy, Nat.add_sub_cancel_left]
          · by_cases hr : y0 + (row + 1) ≤ y.val ∧
                y.val < y0 + (row + 1) + min n (Config.memSize - (s.i.toNat + (row + 1)))
            · rw [if_pos ⟨hr.1, hr.2, hx⟩, if_pos (by omega)]
            · rw [if_neg (fun h => hr ⟨h.1, h.2.1⟩), if_neg (fun h => hy h.1), if_neg (by omega)]
        · rw [if_neg (fun h => hx h.2.2), if_neg (fun h => hx h.2), if_neg (fun h => hx h.2.2)]
      · rw [State.drawRows, State.getByte_ok s hb]
        simp only
        rw [heq]
        simp only [State.setFb_i, show n + 1 ≠ 0 by omega, false_or,
          show s.i.toNat + (row + 1) + n = s.i.toNat + row + (n + 1) by omega]
        by_cases hn : s.i.toNat + row + (n + 1) ≤ Config.memSize
        · rw [if_pos (Or.inr hn), if_pos hn]
          rfl
        · have hmax : max (s.i.toNat + (row + 1)) Config.memSize = max (s.i.toNat + row) Config.memSize := by omega
          rw [if_neg hn, hmax]
          by_cases h0 : n = 0
          · omega
          · rw [if_neg (by omega)]
            rfl
    · refine ⟨s.fb, fun x y => ?_, ?_⟩
      · rw [if_neg (by omega)]
      · rw [State.drawRows, State.getByte_error s (by omega), if_neg (by omega),
          show max (s.i.toNat + row) Config.memSize = s.i.toNat + row by omega]
        rfl

/-- What the dump loop leaves before any error: the bytes that fit stored, `I` advanced once for each (44_index_memory.md
R161, R162). -/
def State.dumped (s : State) (bytes : List Byte) : State :=
  (s.putBytes s.i.toNat (bytes.take (Config.memSize - s.i.toNat))).setIndex
    (s.i + BitVec.ofNat 16 (min bytes.length (Config.memSize - s.i.toNat)))

@[simp] theorem State.dumped_params (bytes : List Byte) : (s.dumped bytes).params = s.params := by
  simp [State.dumped]
@[simp] theorem State.dumped_regs (bytes : List Byte) : (s.dumped bytes).regs = s.regs := by
  simp [State.dumped]
@[simp] theorem State.dumped_pc (bytes : List Byte) : (s.dumped bytes).pc = s.pc := by
  simp [State.dumped]
@[simp] theorem State.dumped_sp (bytes : List Byte) : (s.dumped bytes).sp = s.sp := by
  simp [State.dumped]
@[simp] theorem State.dumped_stack (bytes : List Byte) : (s.dumped bytes).stack = s.stack := by
  simp [State.dumped]
@[simp] theorem State.dumped_fb (bytes : List Byte) : (s.dumped bytes).fb = s.fb := by
  simp [State.dumped]
@[simp] theorem State.dumped_mode (bytes : List Byte) : (s.dumped bytes).mode = s.mode := by
  simp [State.dumped]
@[simp] theorem State.dumped_haltCause (bytes : List Byte) : (s.dumped bytes).haltCause = s.haltCause := by
  simp [State.dumped]
@[simp] theorem State.dumped_haltInfo (bytes : List Byte) : (s.dumped bytes).haltInfo = s.haltInfo := by
  simp [State.dumped]
@[simp] theorem State.dumped_keyDest (bytes : List Byte) : (s.dumped bytes).keyDest = s.keyDest := by
  simp [State.dumped]
@[simp] theorem State.dumped_fbGrant (bytes : List Byte) : (s.dumped bytes).fbGrant = s.fbGrant := by
  simp [State.dumped]
@[simp] theorem State.dumped_keyInput (bytes : List Byte) : (s.dumped bytes).keyInput = s.keyInput := by
  simp [State.dumped]
@[simp] theorem State.dumped_keyPolls (bytes : List Byte) : (s.dumped bytes).keyPolls = s.keyPolls := by
  simp [State.dumped]
@[simp] theorem State.dumped_randInput (bytes : List Byte) : (s.dumped bytes).randInput = s.randInput := by
  simp [State.dumped]
@[simp] theorem State.dumped_draws (bytes : List Byte) : (s.dumped bytes).draws = s.draws := by
  simp [State.dumped]
@[simp] theorem State.dumped_reg (bytes : List Byte) (q : RegIdx) : (s.dumped bytes).reg q = s.reg q := by
  simp [State.dumped]
@[simp] theorem State.dumped_stackEntry (bytes : List Byte) (k : Nat) : (s.dumped bytes).stackEntry k = s.stackEntry k := by
  simp [State.dumped]

/-- `I` after a dump of at most sixteen registers: advanced once per byte that fits (44_index_memory.md R161). -/
theorem State.dumped_i_toNat {bytes : List Byte} (h : bytes.length ≤ 16) :
    (s.dumped bytes).i.toNat = s.i.toNat + min bytes.length (Config.memSize - s.i.toNat) := by
  have hs := s.i.isLt
  rw [State.dumped, State.setIndex_i, BitVec.toNat_add, BitVec.toNat_ofNat]
  simp only [Config.memSize]
  omega

/-- Memory after a dump: the bytes that fit from `I` on, every other byte as before (44_index_memory.md R161, R162). -/
theorem State.byteAt_dumped {bytes : List Byte} {b : Nat} (h : s.mem.wf s.params = true) :
    (s.dumped bytes).byteAt b =
      if s.i.toNat ≤ b ∧ b < s.i.toNat + min bytes.length (Config.memSize - s.i.toNat)
      then bytes.getD (b - s.i.toNat) 0x00#8 else s.byteAt b := by
  rw [State.dumped, State.setIndex_byteAt]
  by_cases hi : s.i.toNat ≤ Config.memSize
  · rw [State.byteAt_putBytes (by rw [List.length_take]; omega) h, List.length_take]
    by_cases hb : s.i.toNat ≤ b ∧ b < s.i.toNat + min bytes.length (Config.memSize - s.i.toNat)
    · rw [if_pos (by omega), if_pos hb, List.getD_eq_getElem?_getD, List.getElem?_take, if_pos (by omega),
        List.getD_eq_getElem?_getD]
    · rw [if_neg (by omega), if_neg hb]
  · rw [show Config.memSize - s.i.toNat = 0 by omega, List.take_zero, if_neg (by omega)]
    rfl

/-- A dump keeps the canonical form. -/
theorem State.wf_dumped {bytes : List Byte} (hi : s.i.toNat ≤ Config.memSize) (h : s.mem.wf s.params = true) :
    (s.dumped bytes).mem.wf s.params = true := by
  rw [State.dumped, State.setIndex_mem]
  exact State.wf_putBytes (by rw [List.length_take]; omega) h

/-- The dump loop: the bytes that fit are stored, `I` is advanced once for each, and the first refused one raises
(44_index_memory.md R161, R162). -/
theorem State.dumpBytes_spec (bytes : List Byte) (s : State) :
    State.dumpBytes bytes s =
      if bytes = [] ∨ s.i.toNat + bytes.length ≤ Config.memSize then s.dumped bytes
      else (s.dumped bytes).raise (.memoryOutOfBounds (BitVec.ofNat 16 (max s.i.toNat Config.memSize))) := by
  induction bytes generalizing s with
  | nil => simp [State.dumpBytes, State.dumped, State.putBytes, State.setIndex]
  | cons b bs ih =>
    by_cases hb : s.i.toNat < Config.memSize
    · have hi : (s.i + 1#16).toNat = s.i.toNat + 1 := by
        have h1 : (1#16).toNat = 1 := rfl
        rw [BitVec.toNat_add, h1, Nat.mod_eq_of_lt]
        simp only [Config.memSize] at hb
        omega
      have hadd : ∀ k : Nat, s.i + 1#16 + BitVec.ofNat 16 k = s.i + BitVec.ofNat 16 (k + 1) := by
        intro k
        rw [BitVec.add_assoc, ← BitVec.ofNat_add, Nat.add_comm]
      have hsub : Config.memSize - s.i.toNat = (Config.memSize - (s.i.toNat + 1)) + 1 := by omega
      have hd : ((s.putByte s.i.toNat b).setIndex (s.i + 1#16)).dumped bs = s.dumped (b :: bs) := by
        unfold State.dumped
        rw [hsub]
        simp only [State.setIndex_i, hi, List.length_cons, List.take_succ_cons, State.putBytes, hadd,
          Nat.succ_min_succ]
        rw [State.putBytes_setIndex]
        rfl
      rw [State.dumpBytes, State.setByte_ok s b hb]
      simp only
      rw [ih, State.putByte_i, hd]
      simp only [State.setIndex_i, hi]
      by_cases hn : s.i.toNat + (bs.length + 1) ≤ Config.memSize
      · rw [if_pos (Or.inr (by omega)), if_pos (Or.inr (show s.i.toNat + (b :: bs).length ≤ Config.memSize from hn))]
      · have hmax : max (s.i.toNat + 1) Config.memSize = max s.i.toNat Config.memSize := by omega
        by_cases h0 : bs = []
        · subst h0
          simp only [List.length_nil] at hn
          omega
        · rw [if_neg (by simp [h0]; omega), if_neg (by simp; omega), hmax]
    · have hz : Config.memSize - s.i.toNat = 0 := by omega
      have hmax : max s.i.toNat Config.memSize = s.i.toNat := by omega
      rw [State.dumpBytes, State.setByte_error s b (by omega), if_neg (by simp; omega)]
      simp [State.dumped, hz, hmax, State.putBytes, State.setIndex]

/-- The step of a Running core whose word at `pc` decodes (40_execute_cycle.md R100 to R103). -/
theorem step_of_decode {i : Instr} (hm : s.mode = .running) (hp : s.pc.toNat + 2 ≤ Config.memSize)
    (hd : decode (ofBytes (s.byteAt s.pc.toNat) (s.byteAt (s.pc.toNat + 1))) = .ok i) :
    step s = exec i s.advancePc := by
  unfold step
  rw [hm, State.fetch_eq, if_pos hp]
  simp only [hd]

/-- The step of a Running core whose word at `pc` is illegal (40_execute_cycle.md R102). -/
theorem step_of_decode_error {e : DecodeError} (hm : s.mode = .running) (hp : s.pc.toNat + 2 ≤ Config.memSize)
    (hd : decode (ofBytes (s.byteAt s.pc.toNat) (s.byteAt (s.pc.toNat + 1))) = .error e) :
    step s = .next (s.advancePc.raise (coreErrorOf e)) := by
  unfold step
  rw [hm, State.fetch_eq, if_pos hp]
  simp only [hd]

/-- The step of a Running core that cannot fetch (40_execute_cycle.md R101). -/
theorem step_of_fetch_error (hm : s.mode = .running) (hp : Config.memSize < s.pc.toNat + 2) :
    step s = .next (s.raise (.memoryOutOfBounds s.pc)) := by
  unfold step
  rw [hm, State.fetch_eq, if_neg (by omega)]

theorem step_of_waiting (hm : s.mode = .waitingForKey) : step s = .next s.resumeGetKey := by
  unfold step
  rw [hm]
  rfl

theorem step_of_halted (hm : s.mode = .halted) : step s = .next s := by
  unfold step
  rw [hm]
  rfl

/-- A run whose first step answers a next state goes on from it. -/
theorem core_run_succ {s t : State} (k : Nat) (h : step s = .next t) :
    Sys2Proof.core.run (k + 1) s = Sys2Proof.core.run k t := by
  have h' : Sys2Proof.core.step s = .next t := h
  simp only [Host.Core.run, h']

end Sys2Proof.Machine
end

