-- ==== Sys2Proof/Laws/PerInstr.lean ====
section
/-! SUPPORT. Per instruction: the word `encode` gives an instruction matches that instruction's row of the opcode table by
mask and match (30_encoding.md R87), and the row is one of the table's. -/

namespace Sys2Proof

/-- A mask applied nibble by nibble. -/
theorem ofNibbles_and (a b c d a' b' c' d' : Nibble) :
    ofNibbles a b c d &&& ofNibbles a' b' c' d' = ofNibbles (a &&& a') (b &&& b') (c &&& c') (d &&& d') := by
  refine BitVec.eq_of_getLsbD_eq fun i _ => ?_
  rw [BitVec.getLsbD_and]
  simp only [getLsbD_ofNibbles, BitVec.getLsbD_and]
  split
  · rfl
  · split
    · rfl
    · split <;> rfl

theorem and_allOnes4 (a : Nibble) : a &&& 0xF#4 = a := BitVec.and_allOnes
theorem and_zero4 (a : Nibble) : a &&& 0x0#4 = 0x0#4 := BitVec.and_zero

/-- Mask `F000` keeps the top nibble. -/
theorem topNibble_mask (a b c d : Nibble) : ofNibbles a b c d &&& 0xF000#16 = ofNibbles a 0#4 0#4 0#4 := by
  rw [show (0xF000#16 : Word) = ofNibbles 0xF#4 0#4 0#4 0#4 from rfl, ofNibbles_and]
  simp only [and_allOnes4, and_zero4]

/-- Mask `F00F` keeps the top and the low nibble. -/
theorem outerNibbles_mask (a b c d : Nibble) : ofNibbles a b c d &&& 0xF00F#16 = ofNibbles a 0#4 0#4 d := by
  rw [show (0xF00F#16 : Word) = ofNibbles 0xF#4 0#4 0#4 0xF#4 from rfl, ofNibbles_and]
  simp only [and_allOnes4, and_zero4]

/-- Mask `F0FF` keeps all but the second nibble. -/
theorem allButX_mask (a b c d : Nibble) : ofNibbles a b c d &&& 0xF0FF#16 = ofNibbles a 0#4 c d := by
  rw [show (0xF0FF#16 : Word) = ofNibbles 0xF#4 0#4 0xF#4 0xF#4 from rfl, ofNibbles_and]
  simp only [and_allOnes4, and_zero4]

end Sys2Proof

namespace Sys2Proof.Laws.EncodesRow

/-- The instruction's word matches its row, and the row is in the table. -/
def Statement (i : Instr) : Prop := i.row.matchesWord (encode i) = true ∧ i.row ∈ opcodeRows

/-- The top nibble alone decides the match. -/
theorem of_topNibble {n : Nibble} (b c d : Nibble) :
    TableRow.matchesWord ⟨0xF000#16, ofNibbles n 0#4 0#4 0#4⟩ (ofNibbles n b c d) = true := by
  simp [TableRow.matchesWord, topNibble_mask]

/-- The top and low nibbles decide the match. -/
theorem of_outerNibbles {n m : Nibble} (b c : Nibble) :
    TableRow.matchesWord ⟨0xF00F#16, ofNibbles n 0#4 0#4 m⟩ (ofNibbles n b c m) = true := by
  simp [TableRow.matchesWord, outerNibbles_mask]

/-- All nibbles but the second decide the match. -/
theorem of_allButX {n p q : Nibble} (b : Nibble) :
    TableRow.matchesWord ⟨0xF0FF#16, ofNibbles n 0#4 p q⟩ (ofNibbles n b p q) = true := by
  simp [TableRow.matchesWord, allButX_mask]

theorem clearDisplay : Statement .clearDisplay := ⟨rfl, by simp [Instr.row, opcodeRows]⟩
theorem ret : Statement .ret := ⟨rfl, by simp [Instr.row, opcodeRows]⟩
theorem call (addr : Addr12) : Statement (.call addr) := ⟨of_topNibble (n := 0x0#4) _ _ _, by simp [Instr.row, opcodeRows]⟩
theorem goto (addr : Addr12) : Statement (.goto addr) := ⟨of_topNibble (n := 0x1#4) _ _ _, by simp [Instr.row, opcodeRows]⟩
theorem callSubroutine (addr : Addr12) : Statement (.callSubroutine addr) := ⟨of_topNibble (n := 0x2#4) _ _ _, by simp [Instr.row, opcodeRows]⟩
theorem skipIfRegisterEquals (x : RegIdx) (imm8 : Byte) : Statement (.skipIfRegisterEquals x imm8) := ⟨of_topNibble (n := 0x3#4) _ _ _, by simp [Instr.row, opcodeRows]⟩
theorem skipIfRegisterNotEquals (x : RegIdx) (imm8 : Byte) : Statement (.skipIfRegisterNotEquals x imm8) := ⟨of_topNibble (n := 0x4#4) _ _ _, by simp [Instr.row, opcodeRows]⟩
theorem skipIfRegistersEqual (x : RegIdx) (y : RegIdx) : Statement (.skipIfRegistersEqual x y) := ⟨of_outerNibbles (n := 0x5#4) (m := 0x0#4) _ _, by simp [Instr.row, opcodeRows]⟩
theorem setRegister (x : RegIdx) (imm8 : Byte) : Statement (.setRegister x imm8) := ⟨of_topNibble (n := 0x6#4) _ _ _, by simp [Instr.row, opcodeRows]⟩
theorem addToRegister (x : RegIdx) (imm8 : Byte) : Statement (.addToRegister x imm8) := ⟨of_topNibble (n := 0x7#4) _ _ _, by simp [Instr.row, opcodeRows]⟩
theorem copyRegister (x : RegIdx) (y : RegIdx) : Statement (.copyRegister x y) := ⟨of_outerNibbles (n := 0x8#4) (m := 0x0#4) _ _, by simp [Instr.row, opcodeRows]⟩
theorem or (x : RegIdx) (y : RegIdx) : Statement (.or x y) := ⟨of_outerNibbles (n := 0x8#4) (m := 0x1#4) _ _, by simp [Instr.row, opcodeRows]⟩
theorem and (x : RegIdx) (y : RegIdx) : Statement (.and x y) := ⟨of_outerNibbles (n := 0x8#4) (m := 0x2#4) _ _, by simp [Instr.row, opcodeRows]⟩
theorem xor (x : RegIdx) (y : RegIdx) : Statement (.xor x y) := ⟨of_outerNibbles (n := 0x8#4) (m := 0x3#4) _ _, by simp [Instr.row, opcodeRows]⟩
theorem addRegisters (x : RegIdx) (y : RegIdx) : Statement (.addRegisters x y) := ⟨of_outerNibbles (n := 0x8#4) (m := 0x4#4) _ _, by simp [Instr.row, opcodeRows]⟩
theorem subtractRegisters (x : RegIdx) (y : RegIdx) : Statement (.subtractRegisters x y) := ⟨of_outerNibbles (n := 0x8#4) (m := 0x5#4) _ _, by simp [Instr.row, opcodeRows]⟩
theorem setI (addr : Addr12) : Statement (.setI addr) := ⟨of_topNibble (n := 0xA#4) _ _ _, by simp [Instr.row, opcodeRows]⟩
theorem gotoPlusV0 (addr : Addr12) : Statement (.gotoPlusV0 addr) := ⟨of_topNibble (n := 0xB#4) _ _ _, by simp [Instr.row, opcodeRows]⟩
theorem setRegisterRandomAnd (x : RegIdx) (imm8 : Byte) : Statement (.setRegisterRandomAnd x imm8) := ⟨of_topNibble (n := 0xC#4) _ _ _, by simp [Instr.row, opcodeRows]⟩
theorem draw (x : RegIdx) (y : RegIdx) (n : Fin 16) : Statement (.draw x y n) := ⟨of_topNibble (n := 0xD#4) _ _ _, by simp [Instr.row, opcodeRows]⟩
theorem dumpRegisters (x : RegIdx) : Statement (.dumpRegisters x) := ⟨of_allButX (n := 0xF#4) (p := 0x5#4) (q := 0x5#4) _, by simp [Instr.row, opcodeRows]⟩
theorem getKey (x : RegIdx) : Statement (.getKey x) := ⟨of_allButX (n := 0xF#4) (p := 0x0#4) (q := 0xA#4) _, by simp [Instr.row, opcodeRows]⟩

end Sys2Proof.Laws.EncodesRow
end

