-- ==== Sys2Proof/Tests/Slice0.lean ====
section
/-! SUPPORT. The model's own tests, each about one step or one decoding, with the expected value from the row of
95_test_vectors.md it names (or worked by hand from the rule it names); and, after them, one witness per clause of the
obligations that have hypotheses. -/

namespace Sys2Proof.Tests

open Sys2Proof Sys2Proof.Machine

/-- A Running core at 0x200 with one instruction word there. -/
def loaded (w : Nat) : State := State.reset.withFetchWord 16 w

/-- The state after one step. -/
def next1 (s : State) : State :=
  match step s with
  | .next t => t
  | .fault _ => s
  | .refused _ => s

/-- The state with one more byte in memory. -/
def withByte (s : State) (a : Nat) (b : Byte) : State := s.putByte a b

/-- The state with two registers set. -/
def withRegs (s : State) (r : RegIdx) (a : Byte) (r' : RegIdx) (b : Byte) : State := (s.setReg r a).setReg r' b

/-- A waiting core whose keypad will make the given report. -/
def waiting (report : Config.KeyReport) : State :=
  { State.reset with mode := .waitingForKey, keyDest := 3, keyInput := [report] }

/-! ### WellFormed: each check refuses an ill-formed term -/

theorem test_wf_refuses_call_0E0 : (Instr.call 0x0E0#12).wf = false := by decide
theorem test_wf_refuses_call_0EE : (Instr.call 0x0EE#12).wf = false := by decide
theorem test_wf_accepts_neighbours : (Instr.call 0x0E1#12).wf = true ∧ (Instr.call 0x0ED#12).wf = true := by decide

/-! ### Decoding: a word of every row (95_test_vectors.md section 2.1) -/

theorem test_decode_clearDisplay : decode 0x00E0#16 = .ok .clearDisplay := rfl
theorem test_decode_ret : decode 0x00EE#16 = .ok .ret := rfl
theorem test_decode_call : decode 0x0FFF#16 = .ok (.call 0xFFF#12) := rfl
theorem test_decode_call_zero : decode 0x0000#16 = .ok (.call 0x000#12) := rfl
theorem test_decode_goto : decode 0x1ABC#16 = .ok (.goto 0xABC#12) := rfl
theorem test_decode_callSubroutine : decode 0x2400#16 = .ok (.callSubroutine 0x400#12) := rfl
theorem test_decode_skipIfRegisterEquals : decode 0x3A7F#16 = .ok (.skipIfRegisterEquals 0xA 0x7F#8) := rfl
theorem test_decode_skipIfRegisterNotEquals : decode 0x4B00#16 = .ok (.skipIfRegisterNotEquals 0xB 0x00#8) := rfl
theorem test_decode_skipIfRegistersEqual : decode 0x5120#16 = .ok (.skipIfRegistersEqual 1 2) := rfl
theorem test_decode_setRegister : decode 0x62FE#16 = .ok (.setRegister 2 0xFE#8) := rfl
theorem test_decode_addToRegister : decode 0x7001#16 = .ok (.addToRegister 0 0x01#8) := rfl
theorem test_decode_copyRegister : decode 0x8120#16 = .ok (.copyRegister 1 2) := rfl
theorem test_decode_or : decode 0x8121#16 = .ok (.or 1 2) := rfl
theorem test_decode_and : decode 0x8122#16 = .ok (.and 1 2) := rfl
theorem test_decode_xor : decode 0x8123#16 = .ok (.xor 1 2) := rfl
theorem test_decode_addRegisters : decode 0x8124#16 = .ok (.addRegisters 1 2) := rfl
theorem test_decode_subtractRegisters : decode 0x8125#16 = .ok (.subtractRegisters 1 2) := rfl
theorem test_decode_setI : decode 0xA234#16 = .ok (.setI 0x234#12) := rfl
theorem test_decode_gotoPlusV0 : decode 0xB300#16 = .ok (.gotoPlusV0 0x300#12) := rfl
theorem test_decode_setRegisterRandomAnd : decode 0xC30F#16 = .ok (.setRegisterRandomAnd 3 0x0F#8) := rfl
theorem test_decode_draw : decode 0xDAB5#16 = .ok (.draw 0xA 0xB 5) := rfl
theorem test_decode_dumpRegisters : decode 0xFF55#16 = .ok (.dumpRegisters 15) := rfl
theorem test_decode_getKey : decode 0xF30A#16 = .ok (.getKey 3) := rfl
theorem test_decode_refuses : decode 0x8126#16 = .error (.unknownInstruction 0x8126#16) ∧
    decode 0x9120#16 = .error (.unknownInstruction 0x9120#16) ∧
    decode 0xE19E#16 = .error (.unknownInstruction 0xE19E#16) ∧
    decode 0xF10B#16 = .error (.unknownInstruction 0xF10B#16) := ⟨rfl, rfl, rfl, rfl⟩
theorem test_decode_bytes_big_endian : decodeBytes 0xA2#8 0x34#8 = .ok (.setI 0x234#12) := rfl
theorem test_decodeTableWord : decodeTableWord 16 0xF155 = some (.dumpRegisters 1) := by decide

/-! ### Fetch and step (section 2.2) -/

/-- T1. -/
theorem test_fetch_last_word :
    (next1 ({ State.reset with pc := 0x0FFE#16 }.withFetchWord 16 0x6007)).reg 0 = 0x07#8 := by decide
/-- T3. -/
theorem test_fetch_4095_halts :
    (next1 { State.reset with pc := 0x0FFF#16 }).outcome = .halt .memoryOutOfBounds 0x0FFF#16 := by decide
/-- T4. -/
theorem test_fetch_odd_address :
    (next1 ({ State.reset with pc := 0x0201#16 }.withFetchWord 16 0x6A01)).pc = 0x0203#16 := by decide
/-- T5, P9. -/
theorem test_illegal_word_halts :
    (next1 (loaded 0xF000)).outcome = .halt .unknownInstruction 0xF000#16 ∧
    (next1 (loaded 0xF000)).pc = 0x0202#16 := by decide
/-- T6. -/
theorem test_soft_reset :
    (next1 (loaded 0xF000)).softReset.pc = 0x0200#16 ∧ (next1 (loaded 0xF000)).softReset.mode = .running := by
  decide

/-! ### Display (section 2.3) -/

/-- T10. -/
theorem test_clearDisplay :
    (next1 { loaded 0x00E0 with fb := Framebuffer.clear.setCell 63 31 true }).fb.cell 63 31 = false := by decide +kernel
/-- T12 and T15 in one row: zero bits erase, columns beyond 63 are dropped. -/
theorem test_draw_overwrites :
    (next1 (withByte { loaded 0xD011 with i := 0x0300#16, fb := Framebuffer.clear.setCell 5 0 true } 0x300 0x80#8)).fb =
      Framebuffer.clear.setCell 0 0 true := by decide +kernel
/-- T19. -/
theorem test_draw_partial :
    (next1 (withByte { loaded 0xD012 with i := 0x0FFF#16 } 0xFFF 0xF0#8)).fb.cell 3 0 = true ∧
    (next1 (withByte { loaded 0xD012 with i := 0x0FFF#16 } 0xFFF 0xF0#8)).outcome =
      .halt .memoryOutOfBounds 0x1000#16 := by decide +kernel

/-! ### Control flow (section 2.4) -/

/-- T30. -/
theorem test_call : (next1 (loaded 0x0123)).pc = 0x0202#16 ∧ (next1 (loaded 0x0123)).sp = 0 := by decide
/-- T31. -/
theorem test_goto : (next1 (loaded 0x1ABC)).pc = 0x0ABC#16 := by decide
/-- T34. -/
theorem test_gotoPlusV0_exact : (next1 ((loaded 0xBFFF).setReg 0 0xFF#8)).pc = 0x10FE#16 := by decide
/-- T35. -/
theorem test_gotoPlusV0_uses_v0 : (next1 (withRegs (loaded 0xB300) 0 0x01#8 3 0x55#8)).pc = 0x0301#16 := by
  decide
/-- T37. -/
theorem test_callSubroutine :
    (next1 { loaded 0x2400 with sp := 15 }).stackEntry 15 = 0x0202#16 ∧ (next1 { loaded 0x2400 with sp := 15 }).sp = 16 ∧
    (next1 { loaded 0x2400 with sp := 15 }).pc = 0x0400#16 := by decide
/-- T38. -/
theorem test_callSubroutine_overflow :
    (next1 { loaded 0x2400 with sp := 16 }).outcome = .halt .stackOverflow 0x0000#16 ∧
    (next1 { loaded 0x2400 with sp := 16 }).pc = 0x0202#16 := by decide
/-- T39. -/
theorem test_ret :
    (next1 { loaded 0x00EE with sp := 1, stack := State.reset.stack.set 0 0x0206#16 }).pc = 0x0206#16 ∧
    (next1 { loaded 0x00EE with sp := 1, stack := State.reset.stack.set 0 0x0206#16 }).sp = 0 := by decide
/-- T40. -/
theorem test_ret_underflow : (next1 (loaded 0x00EE)).outcome = .halt .stackUnderflow 0x0000#16 := by decide
/-- T41, T42. -/
theorem test_skipIfRegisterEquals :
    (next1 ((loaded 0x332A).setReg 3 0x2A#8)).pc = 0x0204#16 ∧
    (next1 ((loaded 0x332A).setReg 3 0x2B#8)).pc = 0x0202#16 := by decide
/-- T43, T44. -/
theorem test_skipIfRegisterNotEquals :
    (next1 ((loaded 0x432A).setReg 3 0x2A#8)).pc = 0x0202#16 ∧ (next1 (loaded 0x432A)).pc = 0x0204#16 := by
  decide
/-- T45, T46. -/
theorem test_skipIfRegistersEqual :
    (next1 (withRegs (loaded 0x5120) 1 7#8 2 7#8)).pc = 0x0204#16 ∧
    (next1 (withRegs (loaded 0x5120) 1 7#8 2 8#8)).pc = 0x0202#16 := by decide

/-! ### Registers and ALU (section 2.5) -/

/-- T60. -/
theorem test_setRegister : (next1 (loaded 0x6F37)).reg 15 = 0x37#8 := by decide
/-- T62. -/
theorem test_addToRegister :
    (next1 ((loaded 0x7001).setReg 0 0xFF#8)).reg 0 = 0x00#8 ∧
    (next1 ((loaded 0x7001).setReg 0 0xFF#8)).reg 15 = 0x00#8 := by decide
/-- T64. -/
theorem test_addToRegister_vf : (next1 ((loaded 0x7F03).setReg 15 0xFE#8)).reg 15 = 0x01#8 := by decide
/-- T65. -/
theorem test_copyRegister : (next1 ((loaded 0x8210).setReg 1 0x5A#8)).reg 2 = 0x5A#8 := by decide
/-- T66. -/
theorem test_or : (next1 (withRegs (loaded 0x8011) 0 0xF0#8 1 0x0F#8)).reg 0 = 0xFF#8 := by decide
/-- T67. -/
theorem test_and : (next1 (withRegs (loaded 0x8012) 0 0xF0#8 1 0x3C#8)).reg 0 = 0x30#8 := by decide
/-- T68. -/
theorem test_xor : (next1 (withRegs (loaded 0x8013) 0 0xF0#8 1 0x3C#8)).reg 0 = 0xCC#8 := by decide
/-- T70. -/
theorem test_addRegisters :
    (next1 (withRegs (loaded 0x8014) 0 0xFF#8 1 0x01#8)).reg 0 = 0x00#8 ∧
    (next1 (withRegs (loaded 0x8014) 0 0xFF#8 1 0x01#8)).reg 15 = 0x01#8 := by decide
/-- T75, T77: VF as destination and as source. -/
theorem test_addRegisters_vf :
    (next1 (withRegs (loaded 0x8F14) 15 0xFF#8 1 0x01#8)).reg 15 = 0x00#8 ∧
    (next1 (withRegs (loaded 0x81F4) 15 0x01#8 1 0xFF#8)).reg 1 = 0x00#8 := by decide
/-- T80, T81: the flag is the borrow, not its complement. -/
theorem test_subtractRegisters :
    (next1 (withRegs (loaded 0x8015) 0 0x05#8 1 0x03#8)).reg 15 = 0x00#8 ∧
    (next1 (withRegs (loaded 0x8015) 0 0x01#8 1 0x02#8)).reg 0 = 0xFF#8 ∧
    (next1 (withRegs (loaded 0x8015) 0 0x01#8 1 0x02#8)).reg 15 = 0x01#8 := by decide
/-- T85, T86. -/
theorem test_subtractRegisters_vf :
    (next1 ((loaded 0x8F15).setReg 1 0x01#8)).reg 15 = 0xFF#8 ∧
    (next1 (withRegs (loaded 0x81F5) 1 0x05#8 15 0x09#8)).reg 1 = 0xFC#8 := by decide
/-- T87. -/
theorem test_setRegisterRandomAnd : (next1 { loaded 0xC30F with randInput := [0xA7#8] }).reg 3 = 0x07#8 := by
  decide
/-- T88: whatever the byte. -/
theorem test_setRegisterRandomAnd_free :
    (next1 (loaded 0xC300)).reg 3 = Config.randomByte 0 &&& 0x00#8 := by rfl

/-! ### Index and memory (section 2.6) -/

/-- T101. -/
theorem test_setI : (next1 (loaded 0xAFFF)).i = 0x0FFF#16 := by decide
/-- T108. -/
theorem test_dumpRegisters_own_code :
    (next1 (withRegs { loaded 0xF155 with i := 0x0200#16 } 0 0x12#8 1 0x34#8)).wordAtPc = 0x0000#16 ∧
    (next1 (withRegs { loaded 0xF155 with i := 0x0200#16 } 0 0x12#8 1 0x34#8)).byteAt 0x201 = 0x34#8 ∧
    (next1 (withRegs { loaded 0xF155 with i := 0x0200#16 } 0 0x12#8 1 0x34#8)).i = 0x0202#16 := by decide
/-- T105. -/
theorem test_dumpRegisters_partial :
    (next1 (withRegs { loaded 0xF255 with i := 0x0FFF#16 } 0 0xAA#8 1 0xBB#8)).byteAt 0xFFF = 0xAA#8 ∧
    (next1 (withRegs { loaded 0xF255 with i := 0x0FFF#16 } 0 0xAA#8 1 0xBB#8)).i = 0x1000#16 ∧
    (next1 (withRegs { loaded 0xF255 with i := 0x0FFF#16 } 0 0xAA#8 1 0xBB#8)).outcome =
      .halt .memoryOutOfBounds 0x1000#16 := by decide

/-! ### Keypad (section 2.7) -/

/-- T120. -/
theorem test_getKey : (next1 { loaded 0xF30A with keyInput := [.key 0xB] }).reg 3 = 0x0B#8 := by decide
/-- T121, T124. -/
theorem test_getKey_none_and_failure :
    (next1 { loaded 0xF30A with keyInput := [.noKey] }).outcome = .suspended ∧
    (next1 { loaded 0xF30A with keyInput := [.noKey] }).keyDest = 3 ∧
    (next1 { loaded 0xF30A with keyInput := [.failure] }).outcome = .halt .keyboardError 0x0000#16 := by
  decide
/-- T123. -/
theorem test_waiting_completes :
    (next1 (waiting (.key 0xB))).reg 3 = 0x0B#8 ∧ (next1 (waiting (.key 0xB))).mode = .running := by decide

/-! ### Memory, host port (part 1 of 95_test_vectors.md; 20_memory.md) -/

/-- A parameter has its effect: with a stack of one entry the second nested call overflows (42_control_flow.md R123). -/
theorem test_stack_depth_parameter :
    (next1 { (State.powerOn { defaultParams with stackDepth := 1 }).withFetchWord 16 0x2400 with sp := 1 }).outcome =
      .halt .stackOverflow 0x0000#16 := by decide
/-- S9: the document's glyph 0. -/
theorem test_font_glyph_zero :
    (List.range 5).map (fun k => State.reset.byteAt (0x050 + k)) = [0xF0#8, 0x90#8, 0x90#8, 0x90#8, 0xF0#8] := by
  decide
/-- Writing the power-on byte removes the cell (20_memory.md R50, the model's canonical form). -/
theorem test_memory_canonical :
    ((State.reset.putByte 0x050 0x00#8).putByte 0x050 0xF0#8).mem = [] ∧
    ((State.reset.putByte 0x300 0x01#8).putByte 0x200 0x02#8).mem = [(0x200, 0x02#8), (0x300, 0x01#8)] := by decide
/-- S5. -/
theorem test_load_then_word :
    (State.reset.load 0x0200#16 [0xAB#8, 0xCD#8]).bind (fun t => t.getWord 0x200) = .ok 0xABCD#16 := by rfl
/-- S4. -/
theorem test_port_refuses_sixteen : State.reset.portGet 16#16 = .error (.registerInvalidIndex 16#16) := by rfl
/-- 50_interfaces.md R191, R192: the status port after T38. -/
theorem test_status_port :
    (next1 { loaded 0x2400 with sp := 16 }).status = ⟨2#2, 2#2, 4#3, 0x0000#16, 0x0202#16, 16#5⟩ := by decide
/-- 50_interfaces.md R188: cell (1, 8) is element 513. -/
theorem test_snapshot_index :
    (State.reset.setFb (Framebuffer.clear.setCell 1 8 true)).snapshot[513] = true := by
  rw [State.snapshot, Vector.getElem_ofFn]
  decide +kernel

/-! ### Witnesses: the hypotheses of the obligations are met, clause by clause -/

theorem witness_DecodeOfEncode : (Instr.call 0xFFF#12).WellFormed ∧ (Instr.draw 15 15 15).WellFormed := by decide
theorem witness_EncodeOfDecode : ∃ w i, decode w = .ok i := ⟨0xF00A#16, .getKey 0, rfl⟩
theorem witness_FirstMatchingRowSelects_none :
    opcodeRows.find? (fun r => r.matchesWord 0xF056#16) = none := by decide
theorem witness_FirstMatchingRowSelects_some :
    opcodeRows.find? (fun r => r.matchesWord 0xF00A#16) = some ⟨0xF0FF#16, 0xF00A#16⟩ := by decide
theorem witness_FirstMatchingRowSelects_call :
    decode 0x00EF#16 = .ok (.call 0x0EF#12) ∧ (0x00EF#16).toNat ≤ 0x0FFF := ⟨rfl, by decide⟩
theorem witness_FirstMatchingRowSelects_two_rows :
    (⟨0xFFFF#16, 0x00E0#16⟩ : TableRow) ∈ opcodeRows ∧ (⟨0xF000#16, 0x0000#16⟩ : TableRow) ∈ opcodeRows ∧
    (⟨0xFFFF#16, 0x00E0#16⟩ : TableRow).matchesWord 0x00E0#16 = true ∧
    (⟨0xF000#16, 0x0000#16⟩ : TableRow).matchesWord 0x00E0#16 = true := by decide
theorem witness_IllegalWordsByClass :
    (nib0 0x5FF1#16 = 0x5#4 ∧ nib3 0x5FF1#16 ≠ 0x0#4) ∧ (nib0 0x8126#16 = 0x8#4 ∧ 0x5#4 < nib3 0x8126#16) ∧
    nib0 0x9000#16 = 0x9#4 ∧ nib0 0xEFFF#16 = 0xE#4 ∧
    (nib0 0xF05A#16 = 0xF#4 ∧ ¬(nib2 0xF05A#16 = 0x5#4 ∧ nib3 0xF05A#16 = 0x5#4) ∧
      ¬(nib2 0xF05A#16 = 0x0#4 ∧ nib3 0xF05A#16 = 0xA#4)) := by decide
theorem witness_StepRunsDecodedInstruction :
    ({ State.reset with pc := 0x0FFE#16 } : State).CanFetch ∧
    decode ({ State.reset with pc := 0x0FFE#16 } : State).wordAtPc = .ok (.call 0x000#12) :=
  ⟨⟨rfl, by decide⟩, rfl⟩
theorem witness_UnfetchableProgramCounterHalts :
    ({ State.reset with pc := 0x0FFF#16 } : State).mode = .running ∧
    0x0FFE < ({ State.reset with pc := 0x0FFF#16 } : State).pc.toNat := by decide
theorem witness_IllegalWordHaltsWithRawWord :
    (loaded 0xF000).CanFetch ∧ opcodeRows.find? (fun r => r.matchesWord (loaded 0xF000).wordAtPc) = none :=
  ⟨⟨rfl, by decide⟩, by decide⟩
theorem witness_HaltedStepChangesNothing : (State.reset.raise .stackOverflow).mode = .halted := rfl
theorem witness_WaitingStepReadsOnlyKeypad :
    (waiting (.key 15)).mode = .waitingForKey ∧ ∃ t, step (waiting (.key 15)) = .next t := ⟨rfl, _, rfl⟩
theorem witness_StepHaltsExactlyOnErrors_none : State.reset.stepRaises = none := by decide
theorem witness_StepHaltsExactlyOnErrors_fetch :
    ({ State.reset with pc := 0x1000#16 } : State).stepRaises = some (.memoryOutOfBounds 0x1000#16) := by decide
theorem witness_StepHaltsExactlyOnErrors_decode :
    (loaded 0x8126).stepRaises = some (.unknownInstruction 0x8126#16) := by decide
theorem witness_StepHaltsExactlyOnErrors_execute :
    (loaded 0x00EE).stepRaises = some .stackUnderflow := by decide
theorem witness_HaltedProgramCounterLocatesFailure :
    (loaded 0x00EE).mode = .running ∧ (next1 (loaded 0x00EE)).mode = .halted ∧
    (next1 { State.reset with pc := 0x0FFF#16 }).mode = .halted := by decide
theorem witness_OnlyGetKeyEntersWait :
    (next1 { loaded 0xF30A with keyInput := [.noKey] }).mode = .waitingForKey := by decide
/-- The default parameters are legal. -/
theorem defaultParams_legal : defaultParams.Legal := ⟨by decide, by decide, rfl, by decide, rfl⟩
/-- A state with `pc` past the end of memory, `I` at its bound and a full stack meets the invariant. -/
theorem witness_StepKeepsBounds :
    ({ State.reset with pc := 0x10FE#16, i := 0x1000#16, sp := 16 } : State).Inv where
  paramsLegal := defaultParams_legal
  memCanonical := rfl
  indexBound := by decide
  pcBound := by decide
  stackShaped := ⟨rfl, by decide⟩
  stackBound := by decide
  haltedIff := by decide
  noInfo := fun _ => rfl
  causeFromStep := by simp [HaltCause.fromStep, State.reset, State.powerOn]
  grantFree := by decide
/-- Parameters other than the defaults are legal too: a shallow stack, a 13-bit `pc`, the glyphs at 0x000, other glyphs. -/
theorem witness_Params_other :
    (Params.mk 1 13 13 0x000 (List.replicate 80 0xFF#8) .clip).Legal ∧
    (Params.mk 31 16 16 0x1B0 fontTable .clip).Legal := ⟨⟨by decide, by decide, rfl, by decide, rfl⟩,
      ⟨by decide, by decide, rfl, by decide, rfl⟩⟩
/-- Each mode, and the deepest stack the status port shows. -/
theorem witness_StatusPortPresentsState :
    State.reset.mode = .running ∧ (waiting .noKey).mode = .waitingForKey ∧
    (State.reset.raise .stackOverflow).mode = .halted ∧ State.reset.params.Legal ∧
    ({ State.reset with sp := 16 } : State).sp ≤ State.reset.params.stackDepth :=
  ⟨rfl, rfl, rfl, defaultParams_legal, by decide⟩
theorem witness_ParametersNeverChange :
    (∃ t, step State.reset = .next t) ∧ (∃ t, State.reset.load 0x0FFF#16 [0x01#8] = .ok t) ∧
    (∃ t, State.reset.portSet 15#16 0x01#8 = .ok t) ∧ ∃ t, State.reset.rendererRequest = some t :=
  ⟨⟨_, rfl⟩, ⟨_, rfl⟩, ⟨_, rfl⟩, ⟨_, rfl⟩⟩
theorem witness_HostOperationsKeepBounds :
    (∃ t, State.reset.load 0x0FFF#16 [0x01#8] = .ok t) ∧ (∃ t, State.reset.portSet 15#16 0x01#8 = .ok t) ∧
    ∃ t, State.reset.rendererRequest = some t := ⟨⟨_, rfl⟩, ⟨_, rfl⟩, ⟨_, rfl⟩⟩
theorem witness_InstructionsWriteOnlyTheirParts :
    (∃ t, exec (.addRegisters 15 0) State.reset = .next t) ∧ (14 : RegIdx) ∉ regsWrittenBy (.addRegisters 15 0) :=
  ⟨⟨_, rfl⟩, by decide⟩
theorem witness_InputsReadOnlyByTheirInstruction :
    (∃ t, exec (.draw 0 1 15) State.reset = .next t) ∧ (∀ x, Instr.draw 0 1 15 ≠ .getKey x) ∧
    ∀ x imm8, Instr.draw 0 1 15 ≠ .setRegisterRandomAnd x imm8 :=
  ⟨⟨_, rfl⟩, fun _ => by simp, fun _ _ => by simp⟩
theorem witness_DrawOverwritesClippedWindow :
    (0 : Fin 16).val = 0 ∧ (0x0FF1#16).toNat + (15 : Fin 16).val ≤ Config.memSize := by decide
theorem witness_DrawHaltsAtFirstRefusedRow :
    (1 : Fin 16).val ≠ 0 ∧ Config.memSize < (0x1000#16).toNat + (1 : Fin 16).val ∧
    Config.memSize < (0x0FF2#16).toNat + (15 : Fin 16).val := by decide
theorem witness_CallChangesNothing : (0x0E1#12 : Addr12) ≠ 0x0E0#12 ∧ (0x0E1#12 : Addr12) ≠ 0x0EE#12 := by decide
theorem witness_GotoSetsProgramCounter : State.reset.mode = .running ∧ 0x0FFE < (0xFFF#12 : Addr12).toNat := by decide
theorem witness_CallSubroutinePushesReturnAddress :
    ({ State.reset with sp := 15 } : State).stack.length = State.reset.params.stackDepth ∧
    ({ State.reset with sp := 15 } : State).sp < State.reset.params.stackDepth := by decide
theorem witness_CallSubroutineOnFullStackHalts :
    ({ State.reset with sp := 16 } : State).sp = State.reset.params.stackDepth := by decide
theorem witness_ReturnPopsIntoProgramCounter :
    ({ State.reset with sp := 16 } : State).sp = 15 + 1 ∧ ({ State.reset with sp := 1 } : State).sp = 0 + 1 := by
  decide
theorem witness_ReturnOnEmptyStackHalts : State.reset.sp = 0 := by decide
/-- The body between the call and the return may be empty, or change registers. -/
theorem witness_ReturnResumesAfterCall :
    ({ State.reset with sp := 15 } : State).stack.length = State.reset.params.stackDepth ∧
    ({ State.reset with sp := 15 } : State).sp < State.reset.params.stackDepth ∧
    ∃ t, exec (.callSubroutine 0x400#12) { State.reset with sp := 15 } = .next t ∧
      (t.setReg 0 0x01#8).sp = t.sp ∧ (t.setReg 0 0x01#8).stack = t.stack :=
  ⟨rfl, by decide, _, rfl, rfl, rfl⟩
/-- Both ways each skip's condition can go. -/
theorem witness_SkipsAdvanceOnCondition :
    State.reset.reg 0 = 0x00#8 ∧ State.reset.reg 0 ≠ 0x01#8 ∧ State.reset.reg 0 = State.reset.reg 15 ∧
    (State.reset.setReg 0 0x01#8).reg 0 ≠ (State.reset.setReg 0 0x01#8).reg 15 := by decide
/-- A destination other than VF with a third register beside it, and VF as the destination. -/
theorem witness_flag_clauses : (14 : RegIdx) ≠ 15 ∧ (0 : RegIdx) ≠ 14 ∧ (0 : RegIdx) ≠ 15 ∧ (15 : RegIdx) = 15 := by
  decide
theorem witness_RandomByteIsMaskedIntoRegister :
    ({ State.reset with randInput := [0xFF#8] } : State).randInput = 0xFF#8 :: [] := rfl
theorem witness_SetILoadsAddress :
    ∃ t, exec (.dumpRegisters 0) State.reset = .next t ∧ t.i ≠ State.reset.i := ⟨_, rfl, by decide⟩
theorem witness_DumpRegistersStoresFromIndex :
    State.reset.mem.wf State.reset.params = true ∧ (0x0FF0#16).toNat + (15 : RegIdx).val < Config.memSize ∧
    Config.memSize ≤ (0x0FF1#16).toNat + (15 : RegIdx).val ∧ Config.memSize ≤ (0x1000#16).toNat + (0 : RegIdx).val := by
  decide
theorem witness_DumpedBytesAreFetched :
    State.reset.mem.wf State.reset.params = true ∧ (0x0200#16).toNat + (1 : RegIdx).val < Config.memSize ∧
    (1 : RegIdx).val = (0 : RegIdx).val + 1 ∧
    ∃ t, exec (.dumpRegisters 1) { State.reset with i := 0x0200#16 } = .next t ∧
      t.pc.toNat = (0x0200#16).toNat + (0 : RegIdx).val := ⟨rfl, by decide, by decide, _, rfl, rfl⟩
theorem witness_ByteAccessIsBoundsChecked :
    State.reset.mem.wf State.reset.params = true ∧ (0x0FFF#16).toNat ≤ 4095 ∧ 4095 < (0x1000#16).toNat := by decide
theorem witness_WordAccessIsBigEndian :
    State.reset.mem.wf State.reset.params = true ∧ (0x0FFE#16).toNat ≤ 4094 ∧ 4094 < (0x0FFF#16).toNat := by decide
theorem witness_GetKeyStoresReportedKey : (waiting (.key 15)).keyReport = .key 15 := rfl
theorem witness_GetKeyWithoutKeyWaits : (waiting .noKey).keyReport = .noKey := rfl
theorem witness_GetKeyFailureHalts : (waiting .failure).keyReport = .failure := rfl
theorem witness_WaitingCoreReexaminesKeypad :
    (waiting (.key 0)).mode = .waitingForKey ∧ (waiting (.key 0)).keyReport = .key 0 ∧
    (waiting .failure).mode = .waitingForKey ∧ (waiting .failure).keyReport = .failure ∧
    (waiting .noKey).mode = .waitingForKey ∧ (waiting .noKey).keyReport = .noKey := ⟨rfl, rfl, rfl, rfl, rfl, rfl⟩
theorem witness_WaitedGetKeyEqualsImmediate :
    ({ loaded 0xF30A with keyInput := [.noKey, .noKey, .key 0xB] } : State).CanFetch ∧
    decode ({ loaded 0xF30A with keyInput := [.noKey, .noKey, .key 0xB] } : State).wordAtPc = .ok (.getKey 3) ∧
    ({ loaded 0xF30A with keyInput := [.noKey, .noKey, .key 0xB] } : State).keyInput =
      List.replicate 2 .noKey ++ .key 0xB :: [] := ⟨⟨rfl, by decide⟩, rfl, rfl⟩
theorem witness_LoadIsAllOrNothing :
    State.reset.mem.wf State.reset.params = true ∧ (0x0FFF#16).toNat + [0x01#8].length ≤ 4096 ∧
    4096 < (0x0FFF#16).toNat + [0x01#8, 0x02#8].length := by decide
theorem witness_RegisterPortRoundTrips :
    (15#16).toNat ≤ 15 ∧ 15 < (16#16).toNat ∧ (14#16 : Word) ≠ 15#16 := by decide
theorem witness_SnapshotIsRowMajor :
    (31 : Fin Config.fbHeight).val * 64 + (63 : Fin Config.fbWidth).val < 2048 := by decide
theorem witness_ArbiterGrantsOneSide :
    State.reset.fbGrant = .nobody ∧ ({ State.reset with fbGrant := .renderer } : State).fbGrant ≠ .nobody ∧
    ∃ t, exec .clearDisplay { State.reset with fbGrant := .renderer } = .next t ∧ t.fbGrant ≠ .renderer :=
  ⟨rfl, by decide, _, rfl, by decide⟩

end Sys2Proof.Tests
end

section
/-! What fits in the registers of a state that meets the invariant. Its bounds on `I` and `pc` (10_state.md R24, R25) and
on the live stack entries are below `2 ^ 13`, and 13 is the least width that legal parameters give `pc` and a stack entry
(92_eei_decisions.md D1, D4); `sp` is bounded by `STACK_DEPTH` (10_state.md R29). -/

namespace Sys2Proof.Machine

theorem Params.Legal.two_pow_thirteen_le_pcW {p : Params} (h : p.Legal) : 2 ^ 13 ≤ 2 ^ p.pcW :=
  Nat.pow_le_pow_right (by decide) h.pcHolds

theorem Params.Legal.two_pow_thirteen_le_stackW {p : Params} (h : p.Legal) : 2 ^ 13 ≤ 2 ^ p.stackW :=
  h.stackMatches ▸ h.two_pow_thirteen_le_pcW

variable {s : State}

theorem State.Inv.pc_lt (h : s.Inv) : s.pc.toNat < 2 ^ s.params.pcW :=
  calc s.pc.toNat ≤ 0x10FE := h.pcBound
    _ < 2 ^ 13 := by decide
    _ ≤ 2 ^ s.params.pcW := h.paramsLegal.two_pow_thirteen_le_pcW

theorem State.Inv.stackEntry_lt (h : s.Inv) {k : Nat} (hk : k < s.sp) :
    (s.stackEntry k).toNat < 2 ^ s.params.stackW :=
  calc (s.stackEntry k).toNat ≤ 0x1000 := h.stackBound k hk
    _ < 2 ^ 13 := by decide
    _ ≤ 2 ^ s.params.stackW := h.paramsLegal.two_pow_thirteen_le_stackW

theorem State.Inv.sp_lt (h : s.Inv) : s.sp < 2 ^ 5 := by
  obtain ⟨-, hsp⟩ := h.stackShaped
  calc s.sp ≤ s.params.stackDepth := hsp
    _ ≤ 31 := h.paramsLegal.stackDepthFits
    _ < 2 ^ 5 := by decide

theorem State.Inv.i_lt (h : s.Inv) : s.i.toNat < 2 ^ 13 :=
  h.indexBound.trans_lt (by decide)

/-- Settles O17: one lemma per register, each from the invariant's bound on it. -/
theorem registersFitTheirWidths : Obligations.RegistersFitTheirWidths :=
  fun _ h => ⟨h.pc_lt, fun _ hk => h.stackEntry_lt hk, h.sp_lt, h.i_lt⟩

end Sys2Proof.Machine
end

section
/-! Memory accesses behind the bounds checker and the host's bulk load (20_memory.md R51, R52, R64). A byte write and a
word write are copies of one and of two bytes, so one frame, `State.putBytes_sameExcept`, and one pair of rules for
reading back, inside and outside the copied range, serve all three. -/

namespace Sys2Proof.Machine

variable {s : State}

/-- Storing bytes changes memory and no other part of the state. -/
theorem State.putBytes_sameExcept (s : State) (a : Nat) (bytes : List Byte) :
    SameExcept [.mem] s (s.putBytes a bytes) := by
  intro p hp
  cases p with
  | mem => exact absurd (List.mem_singleton_self _) hp
  | _ => simp [Part.Same]

/-- Inside the copied range stands the copied byte (20_memory.md R64). -/
theorem State.byteAt_putBytes_add {bytes : List Byte} {a k : Nat} (h : s.mem.wf s.params = true)
    (ha : a + bytes.length ≤ Config.memSize) (hk : k < bytes.length) :
    (s.putBytes a bytes).byteAt (a + k) = bytes[k] := by
  rw [State.byteAt_putBytes ha h, if_pos (by omega), Nat.add_sub_cancel_left, List.getD_eq_getElem _ _ hk]

/-- Outside the copied range every byte is as before (20_memory.md R64). -/
theorem State.byteAt_putBytes_outside {bytes : List Byte} {a b : Nat} (h : s.mem.wf s.params = true)
    (ha : a + bytes.length ≤ Config.memSize) (hb : b < a ∨ a + bytes.length ≤ b) :
    (s.putBytes a bytes).byteAt b = s.byteAt b := by
  rw [State.byteAt_putBytes ha h, if_neg (by omega)]

/-- A byte write in bounds is a copy of one byte (20_memory.md R51). -/
theorem State.setByte_eq_putBytes {a : Nat} (v : Byte) (h : a < Config.memSize) :
    s.setByte a v = .ok (s.putBytes a [v]) := s.setByte_ok v h

/-- A word write in bounds is a copy of its two bytes, most significant first (20_memory.md R52). -/
theorem State.setWord_eq_putBytes {a : Nat} (v : Word) (h : a + 2 ≤ Config.memSize) :
    s.setWord a v = .ok (s.putBytes a [highByte v, lowByte v]) := if_pos h

theorem State.setWord_error {a : Nat} (v : Word) (h : Config.memSize < a + 2) :
    s.setWord a v = .error (.memoryOutOfBounds (BitVec.ofNat 16 a)) := if_neg (Nat.not_le.2 h)

/-- A load that fits is a copy of its bytes (20_memory.md R64). -/
theorem State.load_ok {offset : Addr} {bytes : List Byte} (h : offset.toNat + bytes.length ≤ Config.memSize) :
    s.load offset bytes = .ok (s.putBytes offset.toNat bytes) := if_pos h

theorem State.load_error {offset : Addr} {bytes : List Byte} (h : Config.memSize < offset.toNat + bytes.length) :
    s.load offset bytes = .error (.memoryOutOfBounds offset) := if_neg (Nat.not_le.2 h)

/-- The error of a refused access at a 16-bit address reports that address, unreduced (20_memory.md R53). -/
theorem memoryOutOfBounds_ofNat_toNat (addr : Addr) :
    CoreError.memoryOutOfBounds (BitVec.ofNat 16 addr.toNat) = .memoryOutOfBounds addr := by
  rw [BitVec.ofNat_toNat, BitVec.setWidth_eq]

/-- Settles O45: in bounds the write is a copy of one byte; out of bounds the checker answers before anything moves. -/
theorem byteAccessIsBoundsChecked : Obligations.ByteAccessIsBoundsChecked := by
  intro s addr v hwf
  refine ⟨fun hin => ?_, fun hout => ?_⟩
  · have hb : addr.toNat < Config.memSize := Nat.lt_succ_of_le hin
    refine ⟨s.getByte_ok hb, _, State.setByte_eq_putBytes v hb, ?_, fun a ha => ?_, s.putBytes_sameExcept _ _⟩
    · exact State.byteAt_putBytes_add (bytes := [v]) (k := 0) hwf hb Nat.one_pos
    · exact State.byteAt_putBytes_outside (bytes := [v]) hwf hb (Nat.lt_or_gt_of_ne ha)
  · rw [← memoryOutOfBounds_ofNat_toNat]
    exact ⟨s.getByte_error hout, s.setByte_error v hout⟩

/-- Settles O46: in bounds the write is a copy of two bytes, the most significant first; out of bounds the checker
answers before anything moves. -/
theorem wordAccessIsBigEndian : Obligations.WordAccessIsBigEndian := by
  intro s addr v hwf
  refine ⟨fun hin => ?_, fun hout => ?_⟩
  · have hb : addr.toNat + 2 ≤ Config.memSize := Nat.add_le_add_right hin 2
    refine ⟨s.getWord_ok hb, _, State.setWord_eq_putBytes v hb, ?_, ?_, fun a ha ha' => ?_, s.putBytes_sameExcept _ _⟩
    · exact State.byteAt_putBytes_add (bytes := [highByte v, lowByte v]) (k := 0) hwf hb Nat.two_pos
    · exact State.byteAt_putBytes_add (bytes := [highByte v, lowByte v]) (k := 1) hwf hb Nat.one_lt_two
    · have hout : a < addr.toNat ∨ addr.toNat + 2 ≤ a := by omega
      exact State.byteAt_putBytes_outside (bytes := [highByte v, lowByte v]) hwf hb hout
  · have hb : Config.memSize < addr.toNat + 2 := Nat.add_lt_add_right hout 2
    rw [← memoryOutOfBounds_ofNat_toNat]
    exact ⟨s.getWord_error hb, State.setWord_error v hb⟩

/-- Settles O56: a load that fits is the copy, and a refused one answers no state. -/
theorem loadIsAllOrNothing : Obligations.LoadIsAllOrNothing := fun s _ _ hwf =>
  ⟨fun hin => ⟨_, State.load_ok hin, fun _ hk => State.byteAt_putBytes_add hwf hin hk,
    fun _ ha => State.byteAt_putBytes_outside hwf hin ha, s.putBytes_sameExcept _ _⟩, State.load_error⟩

end Sys2Proof.Machine
end

section
/-! The decoder as a search of the opcode table (30_encoding.md R86). `decode` and `opcodeRows` list the same 22 rows in the
same order, the one testing nibbles and the other a mask, so the search of the table follows the decoder test by test. -/

namespace Sys2Proof

variable {w : Word}

/-- A word is known by its nibbles. -/
theorem eq_ofNibbles_iff (a b c d : Nibble) :
    w = ofNibbles a b c d ↔ nib0 w = a ∧ nib1 w = b ∧ nib2 w = c ∧ nib3 w = d := by
  constructor
  · rintro rfl
    simp
  · rintro ⟨rfl, rfl, rfl, rfl⟩
    exact (ofNibbles_nibs w).symm

/-- The top nibble is 0 on the words up to `0x0FFF`. -/
theorem nib0_eq_zero_iff : nib0 w = 0x0#4 ↔ w.toNat ≤ 0x0FFF := by
  rw [← BitVec.toNat_inj, nib0, BitVec.extractLsb'_toNat, Nat.shiftRight_eq_div_pow, BitVec.toNat_ofNat]
  have := w.isLt
  omega

/-! The row tests of the table, one per format (30_encoding.md R84, R87), by the nibbles the mask keeps. -/

namespace TableRow

theorem matchesWord_iff {r : TableRow} : r.matchesWord w = true ↔ w &&& r.mask = r.pattern := beq_iff_eq

theorem matchesWord_exact_iff {v : Word} : matchesWord ⟨0xFFFF#16, v⟩ w = true ↔ w = v := by
  rw [matchesWord_iff, show w &&& 0xFFFF#16 = w from BitVec.and_allOnes]

theorem matchesWord_topNibble_iff (a : Nibble) :
    matchesWord ⟨0xF000#16, ofNibbles a 0#4 0#4 0#4⟩ w = true ↔ nib0 w = a := by
  rw [matchesWord_iff, ← ofNibbles_nibs w, topNibble_mask, eq_ofNibbles_iff]
  simp

theorem matchesWord_outerNibbles_iff (a d : Nibble) :
    matchesWord ⟨0xF00F#16, ofNibbles a 0#4 0#4 d⟩ w = true ↔ nib0 w = a ∧ nib3 w = d := by
  rw [matchesWord_iff, ← ofNibbles_nibs w, outerNibbles_mask, eq_ofNibbles_iff]
  simp

theorem matchesWord_allButX_iff (a c d : Nibble) :
    matchesWord ⟨0xF0FF#16, ofNibbles a 0#4 c d⟩ w = true ↔ nib0 w = a ∧ nib2 w = c ∧ nib3 w = d := by
  rw [matchesWord_iff, ← ofNibbles_nibs w, allButX_mask, eq_ofNibbles_iff]
  simp

theorem matchesWord_nibbles_iff (a b c d : Nibble) :
    matchesWord ⟨0xFFFF#16, ofNibbles a b c d⟩ w = true ↔ nib0 w = a ∧ nib1 w = b ∧ nib2 w = c ∧ nib3 w = d :=
  matchesWord_exact_iff.trans (eq_ofNibbles_iff a b c d)

/-- Two rows that match one word agree on the bits both masks keep. -/
theorem agree_of_matchesWord {r₁ r₂ : TableRow} (h₁ : r₁.matchesWord w = true) (h₂ : r₂.matchesWord w = true) :
    r₁.pattern &&& r₂.mask = r₂.pattern &&& r₁.mask := by
  rw [← matchesWord_iff.1 h₁, ← matchesWord_iff.1 h₂, BitVec.and_assoc, BitVec.and_assoc, BitVec.and_comm r₁.mask]

end TableRow

/-- `d` is what a search of `rows` for the first that matches `w` decodes `w` to. -/
structure SearchDecodes (w : Word) (rows : List TableRow) (d : Except DecodeError Instr) : Prop where
  row_of_ok : ∀ i, d = .ok i → rows.find? (fun r => r.matchesWord w) = some i.row
  ok_of_row : ∀ r, rows.find? (fun r => r.matchesWord w) = some r → ∃ i, d = .ok i ∧ i.row = r
  error_of_none : rows.find? (fun r => r.matchesWord w) = none → d = .error (.unknownInstruction w)

theorem SearchDecodes.nil : SearchDecodes w [] (.error (.unknownInstruction w)) :=
  ⟨nofun, nofun, fun _ => rfl⟩

/-- One test of the decoder is one row of the search. -/
theorem SearchDecodes.cons (i : Instr) {c : Prop} [Decidable c] {rows : List TableRow} {d : Except DecodeError Instr}
    (hc : i.row.matchesWord w = true ↔ c) (h : SearchDecodes w rows d) :
    SearchDecodes w (i.row :: rows) (if c then .ok i else d) := by
  by_cases hi : c
  · have hfind : (i.row :: rows).find? (fun r => r.matchesWord w) = some i.row :=
      List.find?_cons_of_pos (hc.2 hi)
    rw [if_pos hi]
    constructor
    · rintro _ ⟨⟩
      exact hfind
    · exact fun r hr => ⟨i, rfl, Option.some.inj (hfind.symm.trans hr)⟩
    · exact fun hr => nomatch hfind.symm.trans hr
  · have hfind : (i.row :: rows).find? (fun r => r.matchesWord w) = rows.find? (fun r => r.matchesWord w) :=
      List.find?_cons_of_neg (mt hc.1 hi)
    rw [if_neg hi]
    constructor <;> rw [hfind]
    exacts [h.row_of_ok, h.ok_of_row, h.error_of_none]

open TableRow in
/-- The decoder is the search of the opcode table. -/
theorem searchDecodes_decode (w : Word) : SearchDecodes w opcodeRows (decode w) :=
  .cons .clearDisplay (matchesWord_nibbles_iff 0x0#4 0x0#4 0xE#4 0x0#4) <|
  .cons .ret (matchesWord_nibbles_iff 0x0#4 0x0#4 0xE#4 0xE#4) <|
  .cons (.call _) (matchesWord_topNibble_iff 0x0#4) <|
  .cons (.goto _) (matchesWord_topNibble_iff 0x1#4) <|
  .cons (.callSubroutine _) (matchesWord_topNibble_iff 0x2#4) <|
  .cons (.skipIfRegisterEquals _ _) (matchesWord_topNibble_iff 0x3#4) <|
  .cons (.skipIfRegisterNotEquals _ _) (matchesWord_topNibble_iff 0x4#4) <|
  .cons (.skipIfRegistersEqual _ _) (matchesWord_outerNibbles_iff 0x5#4 0x0#4) <|
  .cons (.setRegister _ _) (matchesWord_topNibble_iff 0x6#4) <|
  .cons (.addToRegister _ _) (matchesWord_topNibble_iff 0x7#4) <|
  .cons (.copyRegister _ _) (matchesWord_outerNibbles_iff 0x8#4 0x0#4) <|
  .cons (.or _ _) (matchesWord_outerNibbles_iff 0x8#4 0x1#4) <|
  .cons (.and _ _) (matchesWord_outerNibbles_iff 0x8#4 0x2#4) <|
  .cons (.xor _ _) (matchesWord_outerNibbles_iff 0x8#4 0x3#4) <|
  .cons (.addRegisters _ _) (matchesWord_outerNibbles_iff 0x8#4 0x4#4) <|
  .cons (.subtractRegisters _ _) (matchesWord_outerNibbles_iff 0x8#4 0x5#4) <|
  .cons (.setI _) (matchesWord_topNibble_iff 0xA#4) <|
  .cons (.gotoPlusV0 _) (matchesWord_topNibble_iff 0xB#4) <|
  .cons (.setRegisterRandomAnd _ _) (matchesWord_topNibble_iff 0xC#4) <|
  .cons (.draw _ _ _) (matchesWord_topNibble_iff 0xD#4) <|
  .cons (.dumpRegisters _) (matchesWord_allButX_iff 0xF#4 0x5#4 0x5#4) <|
  .cons (.getKey _) (matchesWord_allButX_iff 0xF#4 0x0#4 0xA#4) .nil

/-- Call is what the first two rows leave of the third (30_encoding.md R86). -/
theorem decode_eq_call_iff :
    (∃ addr, decode w = .ok (.call addr)) ↔ w.toNat ≤ 0x0FFF ∧ w ≠ 0x00E0#16 ∧ w ≠ 0x00EE#16 := by
  have h00E0 : w = 0x00E0#16 ↔ _ := eq_ofNibbles_iff 0x0#4 0x0#4 0xE#4 0x0#4
  have h00EE : w = 0x00EE#16 ↔ _ := eq_ofNibbles_iff 0x0#4 0x0#4 0xE#4 0xE#4
  rw [← nib0_eq_zero_iff, Ne, Ne, h00E0, h00EE]
  constructor
  · rintro ⟨addr, h⟩
    cases decode_inv h with
    | call h0 hne0 hneE => exact ⟨h0, fun e => hne0 e.2, fun e => hneE e.2⟩
  · rintro ⟨h0, hne0, hneE⟩
    exact ⟨_, decode_of_decodesTo (.call h0 (fun e => hne0 ⟨h0, e⟩) (fun e => hneE ⟨h0, e⟩))⟩

/-- Two rows of the table that agree on their common bits are one row, unless one of them is a single word's. -/
theorem opcodeRows_separated : ∀ r₁ ∈ opcodeRows, ∀ r₂ ∈ opcodeRows, r₁ ≠ r₂ →
    r₁.pattern &&& r₂.mask = r₂.pattern &&& r₁.mask →
    (r₁ = Instr.clearDisplay.row ∨ r₂ = Instr.clearDisplay.row) ∨ r₁ = Instr.ret.row ∨ r₂ = Instr.ret.row := by
  decide

/-- Only `00E0` and `00EE` are matched by two rows (30_encoding.md R86). -/
theorem eq_of_two_rows_match {r₁ r₂ : TableRow} (hr₁ : r₁ ∈ opcodeRows) (hr₂ : r₂ ∈ opcodeRows) (hne : r₁ ≠ r₂)
    (h₁ : r₁.matchesWord w = true) (h₂ : r₂.matchesWord w = true) : w = 0x00E0#16 ∨ w = 0x00EE#16 := by
  refine (opcodeRows_separated r₁ hr₁ r₂ hr₂ hne (TableRow.agree_of_matchesWord h₁ h₂)).imp ?_ ?_
  all_goals
    rintro (rfl | rfl)
    exacts [TableRow.matchesWord_exact_iff.1 h₁, TableRow.matchesWord_exact_iff.1 h₂]

/-- Settles O4: the decoder is the search of the table, row by row; Call is read off the decoder, and the exclusion off the
masks. -/
theorem firstMatchingRowSelects : Obligations.FirstMatchingRowSelects := by
  intro w
  obtain ⟨row_of_ok, ok_of_row, error_of_none⟩ := searchDecodes_decode w
  exact ⟨row_of_ok, ok_of_row, error_of_none, decode_eq_call_iff,
    fun _ hr₁ _ hr₂ => eq_of_two_rows_match hr₁ hr₂⟩

end Sys2Proof
end

section
/-! Goto (42_control_flow.md R121). It checks nothing itself: an address past the last word of memory is refused by the
bounds check of the next fetch (20_memory.md R52, 40_execute_cycle.md R101). -/

namespace Sys2Proof.Machine

/-- An address is zero-extended without loss. -/
@[simp] theorem toNat_zextAddr (addr : Addr12) : (zextAddr addr).toNat = addr.toNat :=
  BitVec.toNat_setWidth_of_le (by decide)

/-- Setting `pc` changes no other part of the state. -/
theorem State.setPc_sameExcept (s : State) (target : Addr) : SameExcept [.pc] s (s.setPc target) := by
  intro p hp
  cases p with
  | pc => exact absurd (List.mem_singleton_self _) hp
  | _ => simp [Part.Same]

theorem State.raise_haltedWith (s : State) (e : CoreError) : HaltedWith e s (s.raise e) := ⟨rfl, rfl, rfl, rfl⟩

/-- The word `1nnn` (42_control_flow.md R121). -/
theorem decode_formatA_goto (addr : Addr12) : decode (formatA 0x1#4 addr) = .ok (.goto addr) := by
  have h := decode_of_decodesTo (.goto (nib0_formatA 0x1#4 addr))
  rwa [fieldAddr_formatA] at h

theorem exec_goto (addr : Addr12) (s : State) : exec (.goto addr) s = .next (s.setPc (zextAddr addr)) := rfl

/-- Settles O26: the Goto only sets `pc`, and an address past the last word fails the bounds check of the next fetch. -/
theorem gotoSetsProgramCounter : Obligations.GotoSetsProgramCounter := by
  intro addr s
  refine ⟨decode_formatA_goto addr, _, exec_goto addr s, toNat_zextAddr addr, s.setPc_sameExcept _, fun hrun haddr => ?_⟩
  have hfetch : Config.memSize < (s.setPc (zextAddr addr)).pc.toNat + 2 := by
    rw [State.setPc_pc, toNat_zextAddr]
    exact Nat.add_lt_add_right haddr 2
  exact ⟨_, step_of_fetch_error _ hrun hfetch, State.raise_haltedWith _ _⟩

end Sys2Proof.Machine
end

section
/-! SetRegister and AddToRegister (43_register_alu.md R140, R141). Each is one register write, so both rest on the frame
`State.setReg_sameExcept` and differ only in the byte written; VF is an ordinary register to them. -/

namespace Sys2Proof.Machine

/-- Writing a register changes no other part of the state. -/
theorem State.setReg_sameExcept (s : State) (r : RegIdx) (v : Byte) : SameExcept [.regs] s (s.setReg r v) := by
  intro p hp
  cases p with
  | regs => exact absurd (List.mem_singleton_self _) hp
  | _ => simp [Part.Same]

/-- The wrapped sum as a number (43_register_alu.md R150). -/
theorem toNat_wrappedSum (a b : Byte) : (wrappedSum a b).toNat = (a.toNat + b.toNat) % 256 :=
  BitVec.toNat_ofNat _ _

/-- The word `6xkk` (43_register_alu.md R140). -/
theorem decode_formatXI_setRegister (x : RegIdx) (imm8 : Byte) :
    decode (formatXI 0x6#4 x imm8) = .ok (.setRegister x imm8) := by
  have h := decode_of_decodesTo (.setRegister (nib0_formatXI 0x6#4 x imm8))
  rwa [fieldX_formatXI, fieldImm8_formatXI] at h

/-- The word `7xkk` (43_register_alu.md R141). -/
theorem decode_formatXI_addToRegister (x : RegIdx) (imm8 : Byte) :
    decode (formatXI 0x7#4 x imm8) = .ok (.addToRegister x imm8) := by
  have h := decode_of_decodesTo (.addToRegister (nib0_formatXI 0x7#4 x imm8))
  rwa [fieldX_formatXI, fieldImm8_formatXI] at h

theorem exec_setRegister (x : RegIdx) (imm8 : Byte) (s : State) :
    exec (.setRegister x imm8) s = .next (s.setReg x imm8) := rfl

theorem exec_addToRegister (x : RegIdx) (imm8 : Byte) (s : State) :
    exec (.addToRegister x imm8) s = .next (s.setReg x (wrappedSum (s.reg x) imm8)) := rfl

/-- Settles O34: the instruction is the register write of its immediate. -/
theorem setRegisterStoresImmediate : Obligations.SetRegisterStoresImmediate := fun x imm8 s =>
  ⟨decode_formatXI_setRegister x imm8, _, exec_setRegister x imm8 s, s.reg_setReg_same x imm8,
    fun _ hr => s.reg_setReg_ne _ hr, s.setReg_sameExcept x _⟩

/-- Settles O35: the instruction is the register write of the wrapped sum, with no write of VF beside it. -/
theorem addToRegisterWrapsWithoutFlag : Obligations.AddToRegisterWrapsWithoutFlag := by
  intro x imm8 s
  refine ⟨decode_formatXI_addToRegister x imm8, _, exec_addToRegister x imm8 s, ?_,
    fun _ hr => s.reg_setReg_ne _ hr, s.setReg_sameExcept x _⟩
  rw [State.reg_setReg_same, toNat_wrappedSum]

end Sys2Proof.Machine
end

section
/-! SetI (44_index_memory.md R160). `I` is written by SetI and DumpRegisters alone (10_state.md R39): one lemma per shared
operation says that it keeps `I`, and a case per instruction cites it. -/

namespace Sys2Proof.Machine

/-- Setting `I` changes no other part of the state. -/
theorem State.setIndex_sameExcept (s : State) (v : Addr) : SameExcept [.index] s (s.setIndex v) := by
  intro p hp
  cases p with
  | index => exact absurd (List.mem_singleton_self _) hp
  | _ => simp [Part.Same]

/-- A 12-bit address is in bounds (44_index_memory.md R160). -/
theorem zextAddr_lt_memSize (addr : Addr12) : (zextAddr addr).toNat < Config.memSize :=
  toNat_zextAddr addr ▸ addr.isLt

/-- The word `Annn` (44_index_memory.md R160). -/
theorem decode_formatA_setI (addr : Addr12) : decode (formatA 0xA#4 addr) = .ok (.setI addr) := by
  have h := decode_of_decodesTo (.setI (nib0_formatA 0xA#4 addr))
  rwa [fieldAddr_formatA] at h

theorem exec_setI (addr : Addr12) (s : State) : exec (.setI addr) s = .next (s.setIndex (zextAddr addr)) := rfl

/-- A push followed by an update that keeps `I` keeps it, whether the push succeeds or is refused. -/
theorem State.orRaise_push_map_i (s : State) {f : State → State} (hf : ∀ t, (f t).i = t.i) :
    (s.orRaise (s.push.map f)).i = s.i := by
  rcases Nat.lt_or_ge s.sp s.params.stackDepth with hsp | hsp
  · rw [s.push_ok hsp]
    exact hf _
  · rw [s.push_full hsp]
    rfl

@[simp] theorem State.orRaise_popPc_i (s : State) : (s.orRaise s.popPc).i = s.i := by
  by_cases hsp : s.sp = 0
  · rw [s.popPc_empty hsp]
    rfl
  · rw [s.popPc_ok hsp]
    rfl

@[simp] theorem State.skipIf_i (s : State) (c : Bool) : (s.skipIf c).i = s.i := by
  rw [State.skipIf_eq, State.setPc_i]

/-- Draw reads its rows at addresses from `I` on without moving `I` (41_display.md R111). -/
@[simp] theorem State.drawRows_i (x0 y0 n row : Nat) (s : State) : (State.drawRows x0 y0 n row s).i = s.i := by
  obtain ⟨fb, -, hrows⟩ := State.drawRows_spec x0 y0 n row s
  rw [hrows]
  split <;> rfl

@[simp] theorem State.startGetKey_i (s : State) (x : RegIdx) : (s.startGetKey x).i = s.i := by
  unfold State.startGetKey
  split <;> rfl

/-- An instruction whose write columns leave out `I` keeps it (10_state.md R39). -/
theorem exec_keeps_index {i : Instr} {s t : State} (hi : Part.index ∉ partsWrittenBy i) (h : exec i s = .next t) :
    t.i = s.i := by
  cases i with
  | setI addr => exact absurd (List.mem_singleton_self _) hi
  | dumpRegisters x => exact absurd List.mem_cons_self hi
  | callSubroutine addr =>
    cases h
    exact s.orRaise_push_map_i fun _ => rfl
  | ret =>
    cases h
    exact s.orRaise_popPc_i
  | skipIfRegisterEquals x imm8 | skipIfRegisterNotEquals x imm8 | skipIfRegistersEqual x y =>
    cases h
    exact s.skipIf_i _
  | draw x y n =>
    cases h
    exact State.drawRows_i _ _ _ _ s.acquireFb
  | getKey x =>
    cases h
    exact s.startGetKey_i x
  | _ =>
    cases h
    rfl

/-- Only the write columns of SetI and DumpRegisters hold `I` (10_state.md R39). -/
theorem index_mem_partsWrittenBy {i : Instr} (h : Part.index ∈ partsWrittenBy i) :
    (∃ addr, i = .setI addr) ∨ ∃ x, i = .dumpRegisters x := by
  cases i with
  | setI addr => exact .inl ⟨addr, rfl⟩
  | dumpRegisters x => exact .inr ⟨x, rfl⟩
  | _ => simp [partsWrittenBy] at h

/-- Settles O42: the instruction is the write of `I`, and an instruction that moved `I` has it in its write columns. -/
theorem setILoadsAddress : Obligations.SetILoadsAddress := by
  intro addr s
  refine ⟨decode_formatA_setI addr, ⟨_, exec_setI addr s, toNat_zextAddr addr, zextAddr_lt_memSize addr,
    s.setIndex_sameExcept _⟩, fun i t h hne => index_mem_partsWrittenBy ?_⟩
  by_contra hi
  exact hne (exec_keeps_index hi h)

end Sys2Proof.Machine
end

section
/-! DumpRegisters (44_index_memory.md R161, R162). Both outcomes leave the memory and the `I` of `State.dumped`, with the
bytes that fit stored; the second then raises the error of the `I` it reached. -/

namespace Sys2Proof.Machine

/-- The bytes DumpRegisters stores: `V[0]` to `V[x]` (44_index_memory.md R161). -/
def State.regsUpTo (s : State) (x : RegIdx) : List Byte := s.toArray.toList.take (x.val + 1)

variable {s : State} {x : RegIdx}

@[simp] theorem State.length_regsUpTo : (s.regsUpTo x).length = x.val + 1 := by
  rw [State.regsUpTo, List.length_take, Vector.length_toList]
  omega

theorem State.regsUpTo_getD {k : RegIdx} (h : k ≤ x) : (s.regsUpTo x).getD k.val 0x00#8 = s.reg k := by
  have hk : k.val < (s.regsUpTo x).length := by
    rw [State.length_regsUpTo]
    exact Nat.lt_succ_of_le h
  rw [List.getD_eq_getElem _ _ hk]
  simp [State.regsUpTo, State.toArray, State.reg]

/-- The dump of `V[0]` to `V[x]` puts `V[k]` at `I + k` when that address is in memory (44_index_memory.md R161). -/
theorem State.byteAt_dumped_regsUpTo {k : RegIdx} (hwf : s.mem.wf s.params = true) (hk : k ≤ x)
    (hin : s.i.toNat + k.val < Config.memSize) :
    (s.dumped (s.regsUpTo x)).byteAt (s.i.toNat + k.val) = s.reg k := by
  have hkx : k.val ≤ x.val := hk
  rw [State.byteAt_dumped s hwf, State.length_regsUpTo, if_pos (by omega), Nat.add_sub_cancel_left,
    State.regsUpTo_getD hk]

/-- The dump of `V[0]` to `V[x]` keeps every byte outside its range, and every byte past the end of memory. -/
theorem State.byteAt_dumped_regsUpTo_outside {a : Nat} (hwf : s.mem.wf s.params = true)
    (ha : a < s.i.toNat ∨ s.i.toNat + x.val < a ∨ Config.memSize ≤ a) :
    (s.dumped (s.regsUpTo x)).byteAt a = s.byteAt a := by
  rw [State.byteAt_dumped s hwf, State.length_regsUpTo, if_neg (by omega)]

/-- `I` after the dump of `V[0]` to `V[x]`. -/
theorem State.dumped_regsUpTo_i_toNat :
    (s.dumped (s.regsUpTo x)).i.toNat = s.i.toNat + min (x.val + 1) (Config.memSize - s.i.toNat) := by
  have hlen : (s.regsUpTo x).length ≤ 16 := by
    rw [State.length_regsUpTo]
    exact x.isLt
  rw [State.dumped_i_toNat s hlen, State.length_regsUpTo]

/-- A dump changes memory and `I`, and no other part of the state. -/
theorem State.dumped_sameExcept (s : State) (bytes : List Byte) : SameExcept [.index, .mem] s (s.dumped bytes) := by
  intro p hp
  cases p with
  | index | mem => simp at hp
  | _ => simp [Part.Same]

/-- Halt entry adds the run state to what changed (60_exceptions.md R209). -/
theorem SameExcept.raise {parts : List Part} {s t : State} (h : SameExcept parts s t) (e : CoreError) :
    SameExcept (parts ++ [.run]) s (t.raise e) := by
  intro p hp
  obtain ⟨hparts, hrun⟩ : p ∉ parts ∧ p ≠ .run := by simpa using hp
  have hsame := h p hparts
  cases p with
  | run => exact absurd rfl hrun
  | _ => exact hsame

/-- The word `Fx55` (44_index_memory.md R161). -/
theorem decode_formatXF_dumpRegisters (x : RegIdx) :
    decode (formatXF 0xF#4 x 0x5#4 0x5#4) = .ok (.dumpRegisters x) := by
  have h := decode_of_decodesTo
    (.dumpRegisters (nib0_formatXF 0xF#4 0x5#4 0x5#4 x) (nib2_formatXF _ _ _ x) (nib3_formatXF _ _ _ x))
  rwa [fieldX_formatXF] at h

theorem exec_dumpRegisters (x : RegIdx) (s : State) :
    exec (.dumpRegisters x) s = .next (State.dumpBytes (s.regsUpTo x) s) := rfl

/-- A dump that fits completes (44_index_memory.md R161). -/
theorem exec_dumpRegisters_of_fits (h : s.i.toNat + x.val < Config.memSize) :
    exec (.dumpRegisters x) s = .next (s.dumped (s.regsUpTo x)) := by
  have hfits : s.i.toNat + (s.regsUpTo x).length ≤ Config.memSize := by
    rw [State.length_regsUpTo]
    exact h
  rw [exec_dumpRegisters, State.dumpBytes_spec, if_pos (.inr hfits)]

/-- A dump that leaves memory advances `I` to the first address it cannot write (44_index_memory.md R162). -/
theorem State.dumped_regsUpTo_i_of_overruns (h : Config.memSize ≤ s.i.toNat + x.val) :
    (s.dumped (s.regsUpTo x)).i.toNat = max s.i.toNat Config.memSize := by
  rw [State.dumped_regsUpTo_i_toNat]
  omega

/-- A dump that leaves memory raises the error of the `I` it reached (44_index_memory.md R162). -/
theorem exec_dumpRegisters_of_overruns (h : Config.memSize ≤ s.i.toNat + x.val) :
    exec (.dumpRegisters x) s =
      .next ((s.dumped (s.regsUpTo x)).raise (.memoryOutOfBounds (s.dumped (s.regsUpTo x)).i)) := by
  have hover : ¬(s.regsUpTo x = [] ∨ s.i.toNat + (s.regsUpTo x).length ≤ Config.memSize) := by
    rw [← List.length_eq_zero_iff, State.length_regsUpTo]
    omega
  rw [exec_dumpRegisters, State.dumpBytes_spec, if_neg hover, ← State.dumped_regsUpTo_i_of_overruns h,
    memoryOutOfBounds_ofNat_toNat]

/-- Settles O43: a dump that fits ends in `State.dumped`; one that overruns raises from there, where the `I` it reports is
the `I` it holds and every register whose address is in memory is stored. -/
theorem dumpRegistersStoresFromIndex : Obligations.DumpRegistersStoresFromIndex := by
  intro x s hwf
  refine ⟨decode_formatXF_dumpRegisters x, fun hfits => ?_, fun hover => ?_⟩
  · refine ⟨_, exec_dumpRegisters_of_fits hfits, ?_, fun k hk => ?_, fun a ha => ?_, s.dumped_sameExcept _⟩
    · rw [State.dumped_regsUpTo_i_toNat]
      omega
    · have hkx : k.val ≤ x.val := hk
      exact State.byteAt_dumped_regsUpTo hwf hk (by omega)
    · exact State.byteAt_dumped_regsUpTo_outside hwf (by omega)
  · refine ⟨_, exec_dumpRegisters_of_overruns hover, ⟨rfl, rfl, rfl, s.dumped_keyDest _⟩,
      State.dumped_regsUpTo_i_of_overruns hover, fun k hk => ?_, fun a ha => ?_, (s.dumped_sameExcept _).raise _⟩
    · have hkx : k ≤ x := Fin.le_def.2 (by omega)
      exact State.byteAt_dumped_regsUpTo hwf hkx hk
    · exact State.byteAt_dumped_regsUpTo_outside hwf (by omega)

end Sys2Proof.Machine
end

section
/-! Halts that write nothing but the halt record: an illegal word, a CallSubroutine on a full stack, a Return on an empty
one (60_exceptions.md R201, R204, R205). Each is an equation for the state reached, a `State.raise`; what is latched and
what is kept are `State.raise_haltedWith` and `State.raise_sameExcept`. -/

namespace Sys2Proof.Machine

/-- What is unchanged outside some parts is unchanged outside more of them. -/
theorem SameExcept.mono {parts parts' : List Part} {s t : State} (h : SameExcept parts s t) (hsub : parts ⊆ parts') :
    SameExcept parts' s t := fun p hp => h p (mt (@hsub p) hp)

/-- Halt entry changes the run state and no other part of the state (60_exceptions.md R209). -/
theorem State.raise_sameExcept (s : State) (e : CoreError) : SameExcept [.run] s (s.raise e) := by
  intro p hp
  cases p with
  | run => exact absurd (List.mem_singleton_self _) hp
  | _ => simp [Part.Same]

variable {s : State}

/-- A word no row matches halts the core from the state with `pc` past it (60_exceptions.md R201). -/
theorem step_of_no_row (hs : s.CanFetch) (hrow : opcodeRows.find? (fun r => r.matchesWord s.wordAtPc) = none) :
    step s = .next (s.advancePc.raise (.unknownInstruction s.wordAtPc)) := by
  obtain ⟨hrun, hpc⟩ := hs
  have hdecode : decode s.wordAtPc = .error (.unknownInstruction s.wordAtPc) :=
    (searchDecodes_decode s.wordAtPc).error_of_none hrow
  exact step_of_decode_error s hrun hpc hdecode

/-- The refused push is raised before the jump (60_exceptions.md R204). -/
theorem exec_callSubroutine_of_full (addr : Addr12) (h : s.params.stackDepth ≤ s.sp) :
    exec (.callSubroutine addr) s = .next (s.raise .stackOverflow) := by
  rw [exec, execCallSubroutine, s.push_full h]
  rfl

/-- The refused pop is raised before the jump (60_exceptions.md R205). -/
theorem exec_ret_of_empty (h : s.sp = 0) : exec .ret s = .next (s.raise .stackUnderflow) := by
  rw [exec, execRet, s.popPc_empty h]
  rfl

/-- Settles O9: a word the search of the table does not find is a decode error, raised after `pc` has advanced. -/
theorem illegalWordHaltsWithRawWord : Obligations.IllegalWordHaltsWithRawWord := by
  intro s hs hrow
  have hframe : SameExcept [.pc, .run] s (s.advancePc.raise (.unknownInstruction s.wordAtPc)) :=
    (s.setPc_sameExcept _).raise _
  exact ⟨_, step_of_no_row hs hrow, s.advancePc.raise_haltedWith _, rfl, rfl, hframe.mono (by decide)⟩

/-- Settles O29: at capacity the instruction is the halt entry alone. -/
theorem callSubroutineOnFullStackHalts : Obligations.CallSubroutineOnFullStackHalts := fun addr s hsp =>
  ⟨_, exec_callSubroutine_of_full addr hsp.ge, s.raise_haltedWith _, s.raise_sameExcept _⟩

/-- Settles O31: on an empty stack the instruction is the halt entry alone. -/
theorem returnOnEmptyStackHalts : Obligations.ReturnOnEmptyStackHalts := fun s hsp =>
  ⟨_, exec_ret_of_empty hsp, s.raise_haltedWith _, s.raise_sameExcept _⟩

end Sys2Proof.Machine
end

section
/-! The encoder and the decoder are inverse (30_encoding.md sections 2 and 3), and the words that decode to nothing
(section 4). `DecodesTo` lists the rows of the table: `decodesTo_encode` puts every well-formed instruction's word in its
row, and each row read backwards is the word its format builds from its own fields. -/

namespace Sys2Proof

variable {w : Word}

/-- A word's address field is its low three nibbles. -/
theorem fieldAddr_eq_iff (b c d : Nibble) :
    fieldAddr w = b ++ c ++ d ↔ nib1 w = b ∧ nib2 w = c ∧ nib3 w = d := by
  constructor
  · intro h
    have hfield : fieldAddr w = fieldAddr (ofNibbles 0x0#4 b c d) := by simpa [fieldAddr] using h
    obtain ⟨w1, w2, w3⟩ := nibs_of_fieldAddr w
    obtain ⟨v1, v2, v3⟩ := nibs_of_fieldAddr (ofNibbles 0x0#4 b c d)
    rw [← w1, ← w2, ← w3, hfield, v1, v2, v3]
    simp
  · rintro ⟨rfl, rfl, rfl⟩
    rfl

/-- Every well-formed instruction's word is in its row of the table (30_encoding.md R84, R87). -/
theorem decodesTo_encode {i : Instr} (h : i.WellFormed) : DecodesTo (encode i) i := by
  cases i with
  | clearDisplay => exact .clearDisplay rfl rfl rfl rfl
  | ret => exact .ret rfl rfl rfl rfl
  | call addr =>
    obtain ⟨h0, hE⟩ : addr ≠ 0x0E0#12 ∧ addr ≠ 0x0EE#12 := by
      simpa [Instr.WellFormed, Instr.wf] using h
    have hfield : fieldAddr (encode (.call addr)) = addr := fieldAddr_formatA 0x0#4 addr
    have hcall : DecodesTo (encode (.call addr)) (.call (fieldAddr (encode (.call addr)))) := by
      refine .call (nib0_formatA 0x0#4 addr) ?_ ?_ <;> rw [← fieldAddr_eq_iff, hfield]
      exacts [h0, hE]
    rwa [hfield] at hcall
  | goto addr => simpa [encode] using DecodesTo.goto (nib0_formatA 0x1#4 addr)
  | callSubroutine addr => simpa [encode] using DecodesTo.callSubroutine (nib0_formatA 0x2#4 addr)
  | skipIfRegisterEquals x imm8 => simpa [encode] using DecodesTo.skipIfRegisterEquals (nib0_formatXI 0x3#4 x imm8)
  | skipIfRegisterNotEquals x imm8 => simpa [encode] using DecodesTo.skipIfRegisterNotEquals (nib0_formatXI 0x4#4 x imm8)
  | skipIfRegistersEqual x y =>
    simpa [encode] using DecodesTo.skipIfRegistersEqual (nib0_formatXYN 0x5#4 0x0#4 x y) (nib3_formatXYN _ _ x y)
  | setRegister x imm8 => simpa [encode] using DecodesTo.setRegister (nib0_formatXI 0x6#4 x imm8)
  | addToRegister x imm8 => simpa [encode] using DecodesTo.addToRegister (nib0_formatXI 0x7#4 x imm8)
  | copyRegister x y => simpa [encode] using DecodesTo.copyRegister (nib0_formatXYN 0x8#4 0x0#4 x y) (nib3_formatXYN _ _ x y)
  | or x y => simpa [encode] using DecodesTo.or (nib0_formatXYN 0x8#4 0x1#4 x y) (nib3_formatXYN _ _ x y)
  | and x y => simpa [encode] using DecodesTo.and (nib0_formatXYN 0x8#4 0x2#4 x y) (nib3_formatXYN _ _ x y)
  | xor x y => simpa [encode] using DecodesTo.xor (nib0_formatXYN 0x8#4 0x3#4 x y) (nib3_formatXYN _ _ x y)
  | addRegisters x y => simpa [encode] using DecodesTo.addRegisters (nib0_formatXYN 0x8#4 0x4#4 x y) (nib3_formatXYN _ _ x y)
  | subtractRegisters x y =>
    simpa [encode] using DecodesTo.subtractRegisters (nib0_formatXYN 0x8#4 0x5#4 x y) (nib3_formatXYN _ _ x y)
  | setI addr => simpa [encode] using DecodesTo.setI (nib0_formatA 0xA#4 addr)
  | gotoPlusV0 addr => simpa [encode] using DecodesTo.gotoPlusV0 (nib0_formatA 0xB#4 addr)
  | setRegisterRandomAnd x imm8 => simpa [encode] using DecodesTo.setRegisterRandomAnd (nib0_formatXI 0xC#4 x imm8)
  | draw x y n => simpa [encode] using DecodesTo.draw (nib0_formatXYN 0xD#4 (.ofFin n) x y)
  | dumpRegisters x =>
    simpa [encode] using DecodesTo.dumpRegisters (nib0_formatXF 0xF#4 0x5#4 0x5#4 x) (nib2_formatXF _ _ _ x)
      (nib3_formatXF _ _ _ x)
  | getKey x =>
    simpa [encode] using DecodesTo.getKey (nib0_formatXF 0xF#4 0x0#4 0xA#4 x) (nib2_formatXF _ _ _ x)
      (nib3_formatXF _ _ _ x)

theorem decode_encode {i : Instr} (h : i.WellFormed) : decode (encode i) = .ok i :=
  decode_of_decodesTo (decodesTo_encode h)

/-! A format applied to a word's own fields gives the word back. -/

theorem formatA_fields (w : Word) : formatA (nib0 w) (fieldAddr w) = w := by
  obtain ⟨h1, h2, h3⟩ := nibs_of_fieldAddr w
  rw [formatA, h1, h2, h3, ofNibbles_nibs]

theorem formatXI_fields (w : Word) : formatXI (nib0 w) (fieldX w) (fieldImm8 w) = w := by
  obtain ⟨h2, h3⟩ := nibs_of_fieldImm8 w
  rw [formatXI, regNibble_fieldX, h2, h3, ofNibbles_nibs]

/-- A row read backwards (30_encoding.md R84, R87). -/
theorem encode_of_decodesTo {i : Instr} (h : DecodesTo w i) : encode i = w := by
  cases h with
  | clearDisplay h0 h1 h2 h3 => exact ((eq_ofNibbles_iff 0x0#4 0x0#4 0xE#4 0x0#4).2 ⟨h0, h1, h2, h3⟩).symm
  | ret h0 h1 h2 h3 => exact ((eq_ofNibbles_iff 0x0#4 0x0#4 0xE#4 0xE#4).2 ⟨h0, h1, h2, h3⟩).symm
  | call h0 | goto h0 | callSubroutine h0 | setI h0 | gotoPlusV0 h0 =>
    rw [encode, ← h0, formatA_fields]
  | skipIfRegisterEquals h0 | skipIfRegisterNotEquals h0 | setRegister h0 | addToRegister h0 | setRegisterRandomAnd h0 =>
    rw [encode, ← h0, formatXI_fields]
  | skipIfRegistersEqual h0 h3 | copyRegister h0 h3 | or h0 h3 | and h0 h3 | xor h0 h3 | addRegisters h0 h3
  | subtractRegisters h0 h3 =>
    exact ((eq_ofNibbles_iff _ _ _ _).2 ⟨h0, rfl, rfl, h3⟩).symm
  | draw h0 => exact ((eq_ofNibbles_iff _ _ _ _).2 ⟨h0, rfl, rfl, rfl⟩).symm
  | dumpRegisters h0 h2 h3 | getKey h0 h2 h3 => exact ((eq_ofNibbles_iff _ _ _ _).2 ⟨h0, rfl, h2, h3⟩).symm

/-- A row gives a Call every address but those of the two rows above it (30_encoding.md R86). -/
theorem wellFormed_of_decodesTo {i : Instr} (h : DecodesTo w i) : i.WellFormed := by
  cases h with
  | call _ hne0 hneE =>
    have h0 : fieldAddr w ≠ 0x0E0#12 := mt (fieldAddr_eq_iff 0x0#4 0xE#4 0x0#4).1 hne0
    have hE : fieldAddr w ≠ 0x0EE#12 := mt (fieldAddr_eq_iff 0x0#4 0xE#4 0xE#4).1 hneE
    simp [Instr.WellFormed, Instr.wf, h0, hE]
  | _ => rfl

/-- Settles O2: the word is in its instruction's row. -/
theorem decodeOfEncode : Obligations.DecodeOfEncode := fun _ h => decode_encode h

/-- Settles O3: the decoder inverted puts the word in a row, and each row is read backwards. -/
theorem encodeOfDecode : Obligations.EncodeOfDecode := fun _ _ h =>
  ⟨wellFormed_of_decodesTo (decode_inv h), encode_of_decodesTo (decode_inv h)⟩

/-- Settles O1: each word is a row of the table with its fields read off, or falls through to the error. -/
theorem sampleWordsDecode : Obligations.SampleWordsDecode :=
  ⟨rfl, rfl, rfl, rfl, rfl, rfl, rfl, rfl, rfl, rfl, rfl, rfl, rfl⟩

/-- A word is illegal when it is in no row. -/
theorem decode_error_iff : (∃ e, decode w = .error e) ↔ ∀ i, ¬DecodesTo w i := by
  constructor
  · rintro ⟨e, he⟩ i hi
    exact nomatch he.symm.trans (decode_of_decodesTo hi)
  · intro hnone
    match hd : decode w with
    | .error e => exact ⟨e, rfl⟩
    | .ok i => exact absurd (decode_inv hd) (hnone i)

/-- The sixteen classes of words. -/
theorem nibble_cases : ∀ a : Nibble, (a = 0x0#4 ∨ a = 0x1#4 ∨ a = 0x2#4 ∨ a = 0x3#4 ∨ a = 0x4#4 ∨ a = 0x5#4 ∨ a = 0x6#4 ∨
    a = 0x7#4) ∨ a = 0x8#4 ∨ a = 0x9#4 ∨ a = 0xA#4 ∨ a = 0xB#4 ∨ a = 0xC#4 ∨ a = 0xD#4 ∨ a = 0xE#4 ∨ a = 0xF#4 := by
  decide

/-- The last nibbles of the legal words of class 8. -/
theorem nibble_le_five : ∀ a : Nibble, ¬0x5#4 < a →
    a = 0x0#4 ∨ a = 0x1#4 ∨ a = 0x2#4 ∨ a = 0x3#4 ∨ a = 0x4#4 ∨ a = 0x5#4 := by
  decide

/-- The classes of illegal words (30_encoding.md section 4). -/
def IllegalClass (w : Word) : Prop :=
  (nib0 w = 0x5#4 ∧ nib3 w ≠ 0x0#4) ∨ (nib0 w = 0x8#4 ∧ 0x5#4 < nib3 w) ∨ nib0 w = 0x9#4 ∨ nib0 w = 0xE#4 ∨
  (nib0 w = 0xF#4 ∧ ¬(nib2 w = 0x5#4 ∧ nib3 w = 0x5#4) ∧ ¬(nib2 w = 0x0#4 ∧ nib3 w = 0xA#4))

/-- Class 0 is three rows: the two single words and Call. -/
theorem exists_decodesTo_of_class_zero (h0 : nib0 w = 0x0#4) : ∃ i, DecodesTo w i := by
  by_cases hclear : nib1 w = 0x0#4 ∧ nib2 w = 0xE#4 ∧ nib3 w = 0x0#4
  · obtain ⟨h1, h2, h3⟩ := hclear
    exact ⟨_, .clearDisplay h0 h1 h2 h3⟩
  · by_cases hret : nib1 w = 0x0#4 ∧ nib2 w = 0xE#4 ∧ nib3 w = 0xE#4
    · obtain ⟨h1, h2, h3⟩ := hret
      exact ⟨_, .ret h0 h1 h2 h3⟩
    · exact ⟨_, .call h0 hclear hret⟩

/-- Class 8 is six rows, one per last nibble up to 5. -/
theorem exists_decodesTo_of_class_eight (h0 : nib0 w = 0x8#4) (h3 : ¬0x5#4 < nib3 w) : ∃ i, DecodesTo w i := by
  rcases nibble_le_five _ h3 with h3 | h3 | h3 | h3 | h3 | h3
  exacts [⟨_, .copyRegister h0 h3⟩, ⟨_, .or h0 h3⟩, ⟨_, .and h0 h3⟩, ⟨_, .xor h0 h3⟩, ⟨_, .addRegisters h0 h3⟩,
    ⟨_, .subtractRegisters h0 h3⟩]

/-- Class F is two rows, by the low byte. -/
theorem exists_decodesTo_of_class_fifteen (h0 : nib0 w = 0xF#4)
    (h : ¬(¬(nib2 w = 0x5#4 ∧ nib3 w = 0x5#4) ∧ ¬(nib2 w = 0x0#4 ∧ nib3 w = 0xA#4))) : ∃ i, DecodesTo w i := by
  rcases not_and_or.1 h with hdump | hkey
  · obtain ⟨h2, h3⟩ := not_not.1 hdump
    exact ⟨_, .dumpRegisters h0 h2 h3⟩
  · obtain ⟨h2, h3⟩ := not_not.1 hkey
    exact ⟨_, .getKey h0 h2 h3⟩

/-- Every word outside the illegal classes is in a row. -/
theorem exists_decodesTo_of_not_illegalClass (h : ¬IllegalClass w) : ∃ i, DecodesTo w i := by
  simp only [IllegalClass, not_or, not_and_or (a := nib0 w = _)] at h
  obtain ⟨h5, h8, h9, hE, hF⟩ := h
  rcases nibble_cases (nib0 w) with (h0 | h0 | h0 | h0 | h0 | h0 | h0 | h0) | h0 | h0 | h0 | h0 | h0 | h0 | h0 | h0
  · exact exists_decodesTo_of_class_zero h0
  · exact ⟨_, .goto h0⟩
  · exact ⟨_, .callSubroutine h0⟩
  · exact ⟨_, .skipIfRegisterEquals h0⟩
  · exact ⟨_, .skipIfRegisterNotEquals h0⟩
  · exact ⟨_, .skipIfRegistersEqual h0 (not_not.1 (h5.resolve_left (not_not.2 h0)))⟩
  · exact ⟨_, .setRegister h0⟩
  · exact ⟨_, .addToRegister h0⟩
  · exact exists_decodesTo_of_class_eight h0 (h8.resolve_left (not_not.2 h0))
  · exact absurd h0 h9
  · exact ⟨_, .setI h0⟩
  · exact ⟨_, .gotoPlusV0 h0⟩
  · exact ⟨_, .setRegisterRandomAnd h0⟩
  · exact ⟨_, .draw h0⟩
  · exact absurd h0 hE
  · exact exists_decodesTo_of_class_fifteen h0 (hF.resolve_left (not_not.2 h0))

/-- No row holds a word of an illegal class: the class's nibbles contradict each row's. -/
theorem not_decodesTo_of_illegalClass {i : Instr} (h : IllegalClass w) : ¬DecodesTo w i := by
  intro hi
  unfold IllegalClass at h
  cases hi with
  | _ => simp_all

/-- Settles O5: a word is illegal when no row holds it, and the classes are what the rows leave. -/
theorem illegalWordsByClass : Obligations.IllegalWordsByClass := fun w => by
  rw [decode_error_iff]
  change _ ↔ IllegalClass w
  constructor
  · intro hnone
    by_contra hlegal
    obtain ⟨i, hi⟩ := exists_decodesTo_of_not_illegalClass hlegal
    exact hnone i hi
  · exact fun h i => not_decodesTo_of_illegalClass h

end Sys2Proof
end

section
/-! The execute phase, said once for all 22 instructions (40_execute_cycle.md R103). `Writes s i u` lists, row by row, the
state `u` an instruction's own writes leave; `exec_spec` says that the execute phase is these writes and then, when
`errorRaisedBy` names an error, halt entry (60_exceptions.md R207, R209). Every claim about all instructions is a case
analysis of `Writes`. -/

namespace Sys2Proof.Machine

/-- The state a push followed by a jump leaves (42_control_flow.md R123). -/
def State.called (s : State) (target : Addr) : State :=
  { s with stack := s.stack.set s.sp s.pc, sp := s.sp + 1, pc := target }

/-- The state a pop into `pc` leaves (42_control_flow.md R124). -/
def State.returned (s : State) : State := { s with sp := s.sp - 1, pc := s.stackEntry (s.sp - 1) }

/-- The state of a core that begins to wait for a key (45_keyboard.md R170). -/
def State.waitFor (s : State) (x : RegIdx) : State := { s with keyDest := x, mode := .waitingForKey }

/-- What the execute phase of an instruction writes before any error it raises. -/
inductive Writes (s : State) : Instr → State → Prop where
  | clearDisplay : Writes s .clearDisplay (s.setFb Framebuffer.clear).releaseFb
  | retEmpty (h : s.sp = 0) : Writes s .ret s
  | retLive (h : s.sp ≠ 0) : Writes s .ret s.returned
  | call (addr : Addr12) : Writes s (.call addr) s
  | goto (addr : Addr12) : Writes s (.goto addr) (s.setPc (zextAddr addr))
  | callFull (addr : Addr12) (h : s.params.stackDepth ≤ s.sp) : Writes s (.callSubroutine addr) s
  | callRoom (addr : Addr12) (h : s.sp < s.params.stackDepth) :
      Writes s (.callSubroutine addr) (s.called (zextAddr addr))
  | skipIfRegisterEquals (x : RegIdx) (imm8 : Byte) :
      Writes s (.skipIfRegisterEquals x imm8) (s.skipIf (s.reg x == imm8))
  | skipIfRegisterNotEquals (x : RegIdx) (imm8 : Byte) :
      Writes s (.skipIfRegisterNotEquals x imm8) (s.skipIf (s.reg x != imm8))
  | skipIfRegistersEqual (x y : RegIdx) : Writes s (.skipIfRegistersEqual x y) (s.skipIf (s.reg x == s.reg y))
  | setRegister (x : RegIdx) (imm8 : Byte) : Writes s (.setRegister x imm8) (s.setReg x imm8)
  | addToRegister (x : RegIdx) (imm8 : Byte) :
      Writes s (.addToRegister x imm8) (s.setReg x (wrappedSum (s.reg x) imm8))
  | copyRegister (x y : RegIdx) : Writes s (.copyRegister x y) (s.setReg x (s.reg y))
  | or (x y : RegIdx) : Writes s (.or x y) (s.setReg x (s.reg x ||| s.reg y))
  | and (x y : RegIdx) : Writes s (.and x y) (s.setReg x (s.reg x &&& s.reg y))
  | xor (x y : RegIdx) : Writes s (.xor x y) (s.setReg x (s.reg x ^^^ s.reg y))
  | addRegisters (x y : RegIdx) : Writes s (.addRegisters x y)
      (s.setFlagThenReg (carryOut (s.reg x) (s.reg y)) x (wrappedSum (s.reg x) (s.reg y)))
  | subtractRegisters (x y : RegIdx) : Writes s (.subtractRegisters x y)
      (s.setFlagThenReg (borrowOut (s.reg x) (s.reg y)) x (wrappedDifference (s.reg x) (s.reg y)))
  | setI (addr : Addr12) : Writes s (.setI addr) (s.setIndex (zextAddr addr))
  | gotoPlusV0 (addr : Addr12) : Writes s (.gotoPlusV0 addr) (s.setPc (zextAddr addr + zextByte (s.reg v0)))
  | setRegisterRandomAnd (x : RegIdx) (imm8 : Byte) :
      Writes s (.setRegisterRandomAnd x imm8) (s.takeRandom.setReg x (s.randomByte &&& imm8))
  | draw (x y : RegIdx) (n : Fin 16) (fb : Framebuffer) : Writes s (.draw x y n) (s.setFb fb).releaseFb
  | dumpRegisters (x : RegIdx) : Writes s (.dumpRegisters x) (s.dumped (s.regsUpTo x))
  | getKeyFound (x : RegIdx) (k : Fin 16) (h : s.keyReport = .key k) :
      Writes s (.getKey x) (s.pollKey.setReg x (zextKey k))
  | getKeyFailed (x : RegIdx) (h : s.keyReport = .failure) : Writes s (.getKey x) s.pollKey
  | getKeyWaits (x : RegIdx) (h : s.keyReport = .noKey) : Writes s (.getKey x) (s.pollKey.waitFor x)

/-- Halt entry when there is an error. -/
def State.raiseIf (s : State) : Option CoreError → State
  | none => s
  | some e => s.raise e

variable {s : State}

/-! The instructions that can end in more than one way, by their outcomes. -/

theorem exec_callSubroutine_of_room (addr : Addr12) (h : s.sp < s.params.stackDepth) :
    exec (.callSubroutine addr) s = .next (s.called (zextAddr addr)) := by
  rw [exec, execCallSubroutine, s.push_ok h]
  rfl

theorem exec_ret_of_live (h : s.sp ≠ 0) : exec .ret s = .next s.returned := by
  rw [exec, execRet, s.popPc_ok h]
  rfl

theorem exec_getKey_of_key (x : RegIdx) {k : Fin 16} (h : s.keyReport = .key k) :
    exec (.getKey x) s = .next (s.pollKey.setReg x (zextKey k)) := by
  rw [exec, execGetKey, State.startGetKey, h]

theorem exec_getKey_of_failure (x : RegIdx) (h : s.keyReport = .failure) :
    exec (.getKey x) s = .next (s.pollKey.raise .keyboardError) := by
  rw [exec, execGetKey, State.startGetKey, h]

theorem exec_getKey_of_noKey (x : RegIdx) (h : s.keyReport = .noKey) :
    exec (.getKey x) s = .next (s.pollKey.waitFor x) := by
  rw [exec, execGetKey, State.startGetKey, h]
  rfl

/-- Draw, cell by cell: the rows whose bytes are in memory are drawn, the grant is given back, and a byte out of memory
raises (41_display.md R111 to R114). -/
theorem exec_draw (x y : RegIdx) (n : Fin 16) (s : State) :
    ∃ fb : Framebuffer,
      (∀ (px : Fin Config.fbWidth) (py : Fin Config.fbHeight), fb.cell px py =
        if (s.reg x).toNat ≤ px.val ∧ px.val < (s.reg x).toNat + 8 ∧ (s.reg y).toNat ≤ py.val ∧
            py.val < (s.reg y).toNat + min n.val (Config.memSize - s.i.toNat)
        then (s.byteAt (s.i.toNat + (py.val - (s.reg y).toNat))).getLsbD (7 - (px.val - (s.reg x).toNat))
        else s.fb.cell px py) ∧
      exec (.draw x y n) s = .next ((s.setFb fb).releaseFb.raiseIf (errorRaisedBy (.draw x y n) s)) := by
  obtain ⟨fb, hcell, hrows⟩ := State.drawRows_spec (s.reg x).toNat (s.reg y).toNat n.val 0 s.acquireFb
  simp only [State.acquireFb_i, State.acquireFb_byteAt, State.acquireFb_fb, Nat.add_zero] at hcell
  refine ⟨fb, fun px py => ?_, ?_⟩
  · rw [hcell, spriteBit]
    exact if_congr ⟨fun ⟨hy, hy', hx, hx'⟩ => ⟨hx, hx', hy, hy'⟩, fun ⟨hx, hx', hy, hy'⟩ => ⟨hy, hy', hx, hx'⟩⟩ rfl rfl
  · rw [exec, execDraw, hrows]
    by_cases hfits : n.val = 0 ∨ s.acquireFb.i.toNat + 0 + n.val ≤ Config.memSize
    · have hok : errorRaisedBy (.draw x y n) s = none := if_neg (by rw [State.acquireFb_i] at hfits; omega)
      rw [if_pos hfits, hok]
      rfl
    · have herr : errorRaisedBy (.draw x y n) s = some (.memoryOutOfBounds (.ofNat 16 (max s.i.toNat Config.memSize))) :=
        if_pos (by rw [State.acquireFb_i] at hfits; omega)
      rw [if_neg hfits, herr]
      rfl

theorem exec_dumpRegisters_eq (x : RegIdx) (s : State) :
    exec (.dumpRegisters x) s = .next ((s.dumped (s.regsUpTo x)).raiseIf (errorRaisedBy (.dumpRegisters x) s)) := by
  rcases Nat.lt_or_ge (s.i.toNat + x.val) Config.memSize with hfits | hover
  · have hok : errorRaisedBy (.dumpRegisters x) s = none := if_neg (by omega)
    rw [exec_dumpRegisters_of_fits hfits, hok]
    rfl
  · have herr : errorRaisedBy (.dumpRegisters x) s = some (.memoryOutOfBounds (.ofNat 16 (max s.i.toNat Config.memSize))) :=
      if_pos (by omega)
    rw [exec_dumpRegisters_of_overruns hover, herr, ← State.dumped_regsUpTo_i_of_overruns hover,
      memoryOutOfBounds_ofNat_toNat]
    rfl

/-- The execute phase of an instruction: its writes, then the error it raises, if any. -/
theorem exec_spec (i : Instr) (s : State) : ∃ u, Writes s i u ∧ exec i s = .next (u.raiseIf (errorRaisedBy i s)) := by
  cases i with
  | ret =>
    by_cases hsp : s.sp = 0
    · exact ⟨s, .retEmpty hsp, by rw [exec_ret_of_empty hsp, errorRaisedBy, if_pos hsp]; rfl⟩
    · exact ⟨_, .retLive hsp, by rw [exec_ret_of_live hsp, errorRaisedBy, if_neg hsp]; rfl⟩
  | callSubroutine addr =>
    rcases Nat.lt_or_ge s.sp s.params.stackDepth with hroom | hfull
    · exact ⟨_, .callRoom addr hroom, by
        rw [exec_callSubroutine_of_room addr hroom, errorRaisedBy, if_neg (Nat.not_le.2 hroom)]; rfl⟩
    · exact ⟨s, .callFull addr hfull, by rw [exec_callSubroutine_of_full addr hfull, errorRaisedBy, if_pos hfull]; rfl⟩
  | draw x y n =>
    obtain ⟨fb, -, hdraw⟩ := exec_draw x y n s
    exact ⟨_, .draw x y n fb, hdraw⟩
  | dumpRegisters x => exact ⟨_, .dumpRegisters x, exec_dumpRegisters_eq x s⟩
  | getKey x =>
    match hk : s.keyReport with
    | .key k => exact ⟨_, .getKeyFound x k hk, by rw [exec_getKey_of_key x hk, errorRaisedBy, hk]; rfl⟩
    | .failure => exact ⟨_, .getKeyFailed x hk, by rw [exec_getKey_of_failure x hk, errorRaisedBy, hk]; rfl⟩
    | .noKey => exact ⟨_, .getKeyWaits x hk, by rw [exec_getKey_of_noKey x hk, errorRaisedBy, hk]; rfl⟩
  | clearDisplay => exact ⟨_, .clearDisplay, rfl⟩
  | call addr => exact ⟨_, .call addr, rfl⟩
  | goto addr => exact ⟨_, .goto addr, rfl⟩
  | skipIfRegisterEquals x imm8 => exact ⟨_, .skipIfRegisterEquals x imm8, rfl⟩
  | skipIfRegisterNotEquals x imm8 => exact ⟨_, .skipIfRegisterNotEquals x imm8, rfl⟩
  | skipIfRegistersEqual x y => exact ⟨_, .skipIfRegistersEqual x y, rfl⟩
  | setRegister x imm8 => exact ⟨_, .setRegister x imm8, rfl⟩
  | addToRegister x imm8 => exact ⟨_, .addToRegister x imm8, rfl⟩
  | copyRegister x y => exact ⟨_, .copyRegister x y, rfl⟩
  | or x y => exact ⟨_, .or x y, rfl⟩
  | and x y => exact ⟨_, .and x y, rfl⟩
  | xor x y => exact ⟨_, .xor x y, rfl⟩
  | addRegisters x y => exact ⟨_, .addRegisters x y, rfl⟩
  | subtractRegisters x y => exact ⟨_, .subtractRegisters x y, rfl⟩
  | setI addr => exact ⟨_, .setI addr, rfl⟩
  | gotoPlusV0 addr => exact ⟨_, .gotoPlusV0 addr, rfl⟩
  | setRegisterRandomAnd x imm8 => exact ⟨_, .setRegisterRandomAnd x imm8, rfl⟩

/-- The execute phase inverted. -/
theorem exec_inv {i : Instr} {t : State} (h : exec i s = .next t) :
    ∃ u, Writes s i u ∧ t = u.raiseIf (errorRaisedBy i s) := by
  obtain ⟨u, hu, hexec⟩ := exec_spec i s
  exact ⟨u, hu, Host.Outcome.next.inj (h.symm.trans hexec)⟩

end Sys2Proof.Machine
end

section
/-! The access matrix (10_state.md section 8) and which instruction can raise which error (60_exceptions.md section 1), read
off `Writes`. -/

namespace Sys2Proof.Machine

theorem SameExcept.refl (parts : List Part) (s : State) : SameExcept parts s s := by
  intro p _
  cases p <;> simp [Part.Same]

theorem Part.Same.trans {p : Part} {s t u : State} (hst : p.Same s t) (htu : p.Same t u) : p.Same s u := by
  cases p <;> simp_all [Part.Same]

/-- One update after another changes at most the parts of both. -/
theorem SameExcept.trans {parts parts' : List Part} {s t u : State} (hst : SameExcept parts s t)
    (htu : SameExcept parts' t u) : SameExcept (parts ++ parts') s u := by
  intro p hp
  obtain ⟨hparts, hparts'⟩ : p ∉ parts ∧ p ∉ parts' := by simpa using hp
  exact (hst p hparts).trans (htu p hparts')

variable (s : State)

theorem State.setFb_releaseFb_sameExcept (fb : Framebuffer) :
    SameExcept [.fb, .grant] s (s.setFb fb).releaseFb := by
  intro p hp
  cases p with
  | fb | grant => simp at hp
  | _ => simp [Part.Same]

theorem State.returned_sameExcept : SameExcept [.pc, .stack] s s.returned := by
  intro p hp
  cases p with
  | pc | stack => simp at hp
  | _ => simp [Part.Same, State.returned, State.reg, State.byteAt]

theorem State.called_sameExcept (target : Addr) : SameExcept [.pc, .stack] s (s.called target) := by
  intro p hp
  cases p with
  | pc | stack => simp at hp
  | _ => simp [Part.Same, State.called, State.reg, State.byteAt]

theorem State.pollKey_sameExcept : SameExcept [.keypad] s s.pollKey := by
  intro p hp
  cases p with
  | keypad => exact absurd (List.mem_singleton_self _) hp
  | _ => simp [Part.Same]

theorem State.takeRandom_sameExcept : SameExcept [.random] s s.takeRandom := by
  intro p hp
  cases p with
  | random => exact absurd (List.mem_singleton_self _) hp
  | _ => simp [Part.Same]

theorem State.waitFor_sameExcept (x : RegIdx) : SameExcept [.run] s (s.waitFor x) := by
  intro p hp
  cases p with
  | run => exact absurd (List.mem_singleton_self _) hp
  | _ => simp [Part.Same, State.waitFor, State.reg, State.byteAt]

theorem State.skipIf_sameExcept (c : Bool) : SameExcept [.pc] s (s.skipIf c) := by
  rw [State.skipIf_eq]
  exact s.setPc_sameExcept _

theorem State.setFlagThenReg_sameExcept (flag : Bool) (x : RegIdx) (v : Byte) :
    SameExcept [.regs] s (s.setFlagThenReg flag x v) :=
  ((s.setReg_sameExcept vf (flagByte flag)).trans (State.setReg_sameExcept _ x v)).mono (by decide)

@[simp] theorem State.raiseIf_none : s.raiseIf none = s := rfl
@[simp] theorem State.raiseIf_some (e : CoreError) : s.raiseIf (some e) = s.raise e := rfl
@[simp] theorem State.raiseIf_reg (e : Option CoreError) (r : RegIdx) : (s.raiseIf e).reg r = s.reg r := by
  cases e <;> rfl
@[simp] theorem State.raiseIf_pc (e : Option CoreError) : (s.raiseIf e).pc = s.pc := by
  cases e <;> rfl

variable {s} {i : Instr} {u : State}

/-- The writes of an instruction are to its parts (10_state.md R39). -/
theorem Writes.sameExcept (h : Writes s i u) : SameExcept (partsWrittenBy i) s u := by
  cases h with
  | clearDisplay => exact s.setFb_releaseFb_sameExcept _
  | retEmpty | call | callFull => exact .refl _ s
  | retLive => exact s.returned_sameExcept.mono (by simp [partsWrittenBy])
  | callRoom => exact (s.called_sameExcept _).mono (by simp [partsWrittenBy])
  | goto | gotoPlusV0 => exact s.setPc_sameExcept _
  | skipIfRegisterEquals | skipIfRegisterNotEquals | skipIfRegistersEqual => exact s.skipIf_sameExcept _
  | setRegister | addToRegister | copyRegister | or | and | xor => exact s.setReg_sameExcept _ _
  | addRegisters | subtractRegisters => exact s.setFlagThenReg_sameExcept _ _ _
  | setI => exact s.setIndex_sameExcept _
  | setRegisterRandomAnd =>
    exact (s.takeRandom_sameExcept.trans (State.setReg_sameExcept _ _ _)).mono (by simp [partsWrittenBy])
  | draw => exact (s.setFb_releaseFb_sameExcept _).mono (by simp [partsWrittenBy])
  | dumpRegisters => exact (s.dumped_sameExcept _).mono (by simp [partsWrittenBy])
  | getKeyFound => exact (s.pollKey_sameExcept.trans (State.setReg_sameExcept _ _ _)).mono (by simp [partsWrittenBy])
  | getKeyFailed => exact s.pollKey_sameExcept.mono (by simp [partsWrittenBy])
  | getKeyWaits => exact (s.pollKey_sameExcept.trans (State.waitFor_sameExcept _ _)).mono (by simp [partsWrittenBy])

/-- A register the matrix does not list for an instruction keeps its value; VF is listed for the two flag-writing
instructions (10_state.md R39). -/
theorem Writes.reg_eq (h : Writes s i u) {r : RegIdx} (hr : r ∉ regsWrittenBy i) : u.reg r = s.reg r := by
  by_cases hregs : Part.regs ∈ partsWrittenBy i
  · cases h with
    | addRegisters | subtractRegisters =>
      obtain ⟨hx, hvf⟩ : r ≠ _ ∧ r ≠ vf := by simpa [regsWrittenBy] using hr
      rw [State.reg_setFlagThenReg, if_neg hx, if_neg hvf]
    | setRegister | addToRegister | copyRegister | or | and | xor | setRegisterRandomAnd | getKeyFound =>
      exact State.reg_setReg_ne _ _ (mt List.mem_singleton.2 hr)
    | getKeyFailed | getKeyWaits => rfl
    | _ => simp [partsWrittenBy] at hregs
  · exact h.sameExcept .regs hregs r

/-- An instruction that raises an error has the run state in its parts (60_exceptions.md R207). -/
theorem run_mem_partsWrittenBy {e : CoreError} (h : errorRaisedBy i s = some e) : Part.run ∈ partsWrittenBy i := by
  cases i with
  | ret | callSubroutine | draw | dumpRegisters | getKey => simp [partsWrittenBy]
  | _ => exact nomatch h

/-- Halt entry stays in the parts of the instruction that raises it. -/
theorem Writes.raiseIf_sameExcept (h : Writes s i u) : SameExcept (partsWrittenBy i) s (u.raiseIf (errorRaisedBy i s)) := by
  match herr : errorRaisedBy i s with
  | none => exact h.sameExcept
  | some e =>
    refine (h.sameExcept.raise e).mono (List.append_subset.2 ⟨List.Subset.refl _, ?_⟩)
    simpa using run_mem_partsWrittenBy herr

/-- Whatever an instruction answers, a part outside its parts is as before. -/
theorem exec_sameExcept {t : State} (h : exec i s = .next t) : SameExcept (partsWrittenBy i) s t := by
  obtain ⟨u, hu, rfl⟩ := exec_inv h
  exact hu.raiseIf_sameExcept

/-- Settles O20: an instruction's writes are in its parts and its registers, and halt entry, which writes the run state
alone, comes only from instructions that list it. -/
theorem instructionsWriteOnlyTheirParts : Obligations.InstructionsWriteOnlyTheirParts := by
  intro i s t h
  refine ⟨exec_sameExcept h, fun r hr => ?_⟩
  obtain ⟨u, hu, rfl⟩ := exec_inv h
  rw [State.raiseIf_reg]
  exact hu.reg_eq hr

end Sys2Proof.Machine
end

section
/-! The inputs (50_interfaces.md sections 2 and 3). `State.withInputs` puts other input records in a state; an instruction
that reads neither input commutes with it, and GetKey and SetRegisterRandomAnd each commute with the other's. -/

namespace Sys2Proof.Machine

/-- The same machine with other reports and bytes supplied (log 4, log 5). -/
def State.withInputs (s : State) (reports : List Config.KeyReport) (polls : Nat) (bytes : List Byte) (draws : Nat) : State :=
  { s with keyInput := reports, keyPolls := polls, randInput := bytes, draws := draws }

variable {s t : State} {i : Instr} (reports : List Config.KeyReport) (polls : Nat) (bytes : List Byte) (draws : Nat)

theorem State.skipIf_withInputs (c : Bool) :
    (s.withInputs reports polls bytes draws).skipIf c = (s.skipIf c).withInputs reports polls bytes draws := by
  cases c <;> rfl

/-- A row of Draw whose byte is in memory is drawn. -/
theorem State.drawRows_succ_of_lt {x0 y0 n row : Nat} (h : s.i.toNat + row < Config.memSize) :
    State.drawRows x0 y0 (n + 1) row s = State.drawRows x0 y0 n (row + 1)
      (s.setFb (s.fb.drawByte s.params.drawOffscreen (s.byteAt (s.i.toNat + row)) x0 (y0 + row))) := by
  rw [State.drawRows, s.getByte_ok h]

/-- A row of Draw whose byte is out of memory raises. -/
theorem State.drawRows_succ_of_ge {x0 y0 n row : Nat} (h : Config.memSize ≤ s.i.toNat + row) :
    State.drawRows x0 y0 (n + 1) row s = s.raise (.memoryOutOfBounds (BitVec.ofNat 16 (s.i.toNat + row))) := by
  rw [State.drawRows, s.getByte_error h]

theorem State.drawRows_withInputs (x0 y0 n row : Nat) (s : State) :
    State.drawRows x0 y0 n row (s.withInputs reports polls bytes draws) =
      (State.drawRows x0 y0 n row s).withInputs reports polls bytes draws := by
  induction n generalizing row s with
  | zero => rfl
  | succ n ih =>
    rcases Nat.lt_or_ge (s.i.toNat + row) Config.memSize with hin | hout
    · rw [State.drawRows_succ_of_lt hin, ← ih]
      exact State.drawRows_succ_of_lt (s := s.withInputs reports polls bytes draws) hin
    · rw [State.drawRows_succ_of_ge hout]
      exact State.drawRows_succ_of_ge (s := s.withInputs reports polls bytes draws) hout

theorem State.putBytes_withInputs (a : Nat) (stored : List Byte) (s : State) :
    (s.withInputs reports polls bytes draws).putBytes a stored =
      (s.putBytes a stored).withInputs reports polls bytes draws := by
  induction stored generalizing s a with
  | nil => rfl
  | cons b bs ih => exact ih (a + 1) (s.putByte a b)

theorem State.dumped_withInputs (stored : List Byte) :
    (s.withInputs reports polls bytes draws).dumped stored = (s.dumped stored).withInputs reports polls bytes draws :=
  congrArg (State.setIndex · _) (State.putBytes_withInputs reports polls bytes draws _ _ s)

theorem State.raiseIf_withInputs (e : Option CoreError) :
    (s.withInputs reports polls bytes draws).raiseIf e = (s.raiseIf e).withInputs reports polls bytes draws := by
  cases e <;> rfl

/-- An instruction that reads neither input does the same whatever they hold. -/
theorem exec_withInputs (hkey : ∀ x, i ≠ .getKey x) (hrand : ∀ x imm8, i ≠ .setRegisterRandomAnd x imm8)
    (h : exec i s = .next t) :
    exec i (s.withInputs reports polls bytes draws) = .next (t.withInputs reports polls bytes draws) := by
  cases i with
  | getKey x => exact absurd rfl (hkey x)
  | setRegisterRandomAnd x imm8 => exact absurd rfl (hrand x imm8)
  | callSubroutine addr =>
    rcases Nat.lt_or_ge s.sp s.params.stackDepth with hroom | hfull
    · cases h.symm.trans (exec_callSubroutine_of_room addr hroom)
      exact exec_callSubroutine_of_room (s := s.withInputs reports polls bytes draws) addr hroom
    · cases h.symm.trans (exec_callSubroutine_of_full addr hfull)
      exact exec_callSubroutine_of_full (s := s.withInputs reports polls bytes draws) addr hfull
  | ret =>
    by_cases hsp : s.sp = 0
    · cases h.symm.trans (exec_ret_of_empty hsp)
      exact exec_ret_of_empty (s := s.withInputs reports polls bytes draws) hsp
    · cases h.symm.trans (exec_ret_of_live hsp)
      exact exec_ret_of_live (s := s.withInputs reports polls bytes draws) hsp
  | skipIfRegisterEquals x imm8 | skipIfRegisterNotEquals x imm8 | skipIfRegistersEqual x y =>
    cases h
    exact congrArg Host.Outcome.next (State.skipIf_withInputs reports polls bytes draws _)
  | draw x y n =>
    cases h
    have hrows := State.drawRows_withInputs reports polls bytes draws (s.reg x).toNat (s.reg y).toNat n.val 0 s.acquireFb
    exact congrArg (fun u => Host.Outcome.next u.releaseFb) hrows
  | dumpRegisters x =>
    cases h.symm.trans (exec_dumpRegisters_eq x s)
    rw [← State.raiseIf_withInputs, ← State.dumped_withInputs]
    exact exec_dumpRegisters_eq x (s.withInputs reports polls bytes draws)
  | _ =>
    cases h
    rfl

/-- GetKey does the same whatever the random source holds. -/
theorem exec_getKey_withInputs {x : RegIdx} (h : exec (.getKey x) s = .next t) :
    exec (.getKey x) (s.withInputs s.keyInput s.keyPolls bytes draws) =
      .next (t.withInputs t.keyInput t.keyPolls bytes draws) := by
  match hk : s.keyReport with
  | .key k =>
    cases h.symm.trans (exec_getKey_of_key x hk)
    exact exec_getKey_of_key (s := s.withInputs _ _ bytes draws) x hk
  | .failure =>
    cases h.symm.trans (exec_getKey_of_failure x hk)
    exact exec_getKey_of_failure (s := s.withInputs _ _ bytes draws) x hk
  | .noKey =>
    cases h.symm.trans (exec_getKey_of_noKey x hk)
    exact exec_getKey_of_noKey (s := s.withInputs _ _ bytes draws) x hk

/-- The random source is a part of SetRegisterRandomAnd alone (10_state.md R39). -/
theorem random_not_mem_partsWrittenBy (h : ∀ x imm8, i ≠ .setRegisterRandomAnd x imm8) :
    Part.random ∉ partsWrittenBy i := by
  cases i with
  | setRegisterRandomAnd x imm8 => exact absurd rfl (h x imm8)
  | _ => simp [partsWrittenBy]

/-- The keypad is a part of GetKey alone (10_state.md R39). -/
theorem keypad_not_mem_partsWrittenBy (h : ∀ x, i ≠ .getKey x) : Part.keypad ∉ partsWrittenBy i := by
  cases i with
  | getKey x => exact absurd rfl (h x)
  | _ => simp [partsWrittenBy]

/-- An instruction that does not read the keypad does the same whatever it holds. -/
theorem exec_withKeypad (hkey : ∀ x, i ≠ .getKey x) (h : exec i s = .next t) :
    exec i (s.withInputs reports polls s.randInput s.draws) = .next (t.withInputs reports polls t.randInput t.draws) := by
  by_cases hrand : ∃ x imm8, i = .setRegisterRandomAnd x imm8
  · obtain ⟨x, imm8, rfl⟩ := hrand
    cases h
    rfl
  · have hrand' : ∀ x imm8, i ≠ .setRegisterRandomAnd x imm8 := fun x imm8 e => hrand ⟨x, imm8, e⟩
    obtain ⟨hbytes, hdraws⟩ := exec_sameExcept h .random (random_not_mem_partsWrittenBy hrand')
    rw [exec_withInputs reports polls s.randInput s.draws hkey hrand' h, hbytes, hdraws]

/-- An instruction that does not read the random source does the same whatever it holds. -/
theorem exec_withRandom (hrand : ∀ x imm8, i ≠ .setRegisterRandomAnd x imm8) (h : exec i s = .next t) :
    exec i (s.withInputs s.keyInput s.keyPolls bytes draws) = .next (t.withInputs t.keyInput t.keyPolls bytes draws) := by
  by_cases hkey : ∃ x, i = .getKey x
  · obtain ⟨x, rfl⟩ := hkey
    exact exec_getKey_withInputs bytes draws h
  · have hkey' : ∀ x, i ≠ .getKey x := fun x e => hkey ⟨x, e⟩
    obtain ⟨hreports, hpolls⟩ := exec_sameExcept h .keypad (keypad_not_mem_partsWrittenBy hkey')
    rw [exec_withInputs s.keyInput s.keyPolls bytes draws hkey' hrand h, hreports, hpolls]

/-- Settles O21: each input is replaced alone, the other kept at what the state holds. -/
theorem inputsReadOnlyByTheirInstruction : Obligations.InputsReadOnlyByTheirInstruction := fun _ _ _ h =>
  ⟨fun hkey reports n => exec_withKeypad reports n hkey h, fun hrand bytes n => exec_withRandom bytes n hrand h⟩

end Sys2Proof.Machine
end

section
/-! The step of a Running core (40_execute_cycle.md R100 to R103), its three ways to end said once, with the error the spec
gives each (60_exceptions.md R207, R208). -/

namespace Sys2Proof.Machine

/-- How a Running core's step ends: refused fetch, illegal word, or the instruction's execute phase. -/
inductive RunningStep (s : State) : State → Prop where
  | unfetchable (hpc : Config.memSize < s.pc.toNat + 2) (hraises : s.stepRaises = some (.memoryOutOfBounds s.pc)) :
      RunningStep s (s.raise (.memoryOutOfBounds s.pc))
  | illegal (hpc : s.pc.toNat + 2 ≤ Config.memSize) (hraises : s.stepRaises = some (.unknownInstruction s.wordAtPc)) :
      RunningStep s (s.advancePc.raise (.unknownInstruction s.wordAtPc))
  | executes {i : Instr} {t : State} (hpc : s.pc.toNat + 2 ≤ Config.memSize) (hdecode : decode s.wordAtPc = .ok i)
      (hexec : exec i s.advancePc = .next t) (hraises : s.stepRaises = errorRaisedBy i s.advancePc) : RunningStep s t

variable {s t : State} {i : Instr}

theorem State.stepRaises_of_unfetchable (hpc : Config.memSize < s.pc.toNat + 2) :
    s.stepRaises = some (.memoryOutOfBounds s.pc) := by
  rw [State.stepRaises, State.fetch_eq, if_neg (Nat.not_le.2 hpc)]

theorem State.stepRaises_of_fetchable (hpc : s.pc.toNat + 2 ≤ Config.memSize) :
    s.stepRaises = match decode s.wordAtPc with
      | .error e => some (coreErrorOf e)
      | .ok i => errorRaisedBy i s.advancePc := by
  rw [State.stepRaises, State.fetch_eq, if_pos hpc]
  rfl

theorem step_of_canFetch (hs : s.CanFetch) (hdecode : decode s.wordAtPc = .ok i) : step s = exec i s.advancePc :=
  step_of_decode s hs.1 hs.2 hdecode

theorem exists_exec_next (i : Instr) (s : State) : ∃ t, exec i s = .next t := by
  obtain ⟨u, -, hexec⟩ := exec_spec i s
  exact ⟨_, hexec⟩

theorem step_of_running (hrun : s.mode = .running) : ∃ t, step s = .next t ∧ RunningStep s t := by
  rcases Nat.lt_or_ge Config.memSize (s.pc.toNat + 2) with hpc | hpc
  · exact ⟨_, step_of_fetch_error s hrun hpc, .unfetchable hpc (State.stepRaises_of_unfetchable hpc)⟩
  · have hraises := State.stepRaises_of_fetchable hpc
    match hdecode : decode s.wordAtPc with
    | .error e =>
      obtain rfl := decode_error hdecode
      rw [hdecode] at hraises
      exact ⟨_, step_of_decode_error s hrun hpc hdecode, .illegal hpc hraises⟩
    | .ok i =>
      rw [hdecode] at hraises
      obtain ⟨t, hexec⟩ := exists_exec_next i s.advancePc
      exact ⟨t, (step_of_canFetch ⟨hrun, hpc⟩ hdecode).trans hexec, .executes hpc hdecode hexec hraises⟩

theorem RunningStep.of_step (hrun : s.mode = .running) (h : step s = .next t) : RunningStep s t := by
  obtain ⟨t', hstep, ht'⟩ := step_of_running hrun
  cases h.symm.trans hstep
  exact ht'

/-- Settles O6: the fetched state is the one with `pc` advanced. -/
theorem stepRunsDecodedInstruction : Obligations.StepRunsDecodedInstruction := fun _ _ hs hdecode =>
  step_of_canFetch hs hdecode

/-- Settles O7: one next state per mode. -/
theorem everyStepAnswersNext : Obligations.EveryStepAnswersNext := fun s =>
  match hmode : s.mode with
  | .halted => ⟨_, step_of_halted s hmode⟩
  | .waitingForKey => ⟨_, step_of_waiting s hmode⟩
  | .running => (step_of_running hmode).imp fun _ h => h.1

/-- Settles O8: the refused fetch is halt entry before `pc` moves. -/
theorem unfetchableProgramCounterHalts : Obligations.UnfetchableProgramCounterHalts := fun s hrun hpc =>
  ⟨_, step_of_fetch_error s hrun (Nat.add_lt_add_right hpc 2), s.raise_haltedWith _, s.raise_sameExcept _, rfl⟩

theorem State.outcome_of_halted (h : s.mode = .halted) : s.outcome = .halt s.haltCause s.haltInfo := by
  rw [State.outcome, h]

/-- Settles O10: the outcome is read from the state the step keeps. -/
theorem haltedStepChangesNothing : Obligations.HaltedStepChangesNothing := fun s hmode =>
  ⟨step_of_halted s hmode, State.outcome_of_halted hmode⟩

/-! What an execute phase does to MODE and, where it raises an error, to `pc` and KEY_DEST. -/

variable {u : State} {e : CoreError}

/-- Only a GetKey that finds no key writes MODE itself (10_state.md R33). -/
theorem Writes.mode_eq_or_waits (h : Writes s i u) :
    u.mode = s.mode ∨ ∃ x, i = .getKey x ∧ s.keyReport = .noKey ∧ u = s.pollKey.waitFor x := by
  cases h with
  | getKeyWaits x hk => exact .inr ⟨x, rfl, hk, rfl⟩
  | skipIfRegisterEquals | skipIfRegisterNotEquals | skipIfRegistersEqual =>
    rw [State.skipIf_eq]
    exact .inl rfl
  | dumpRegisters => exact .inl (s.dumped_mode _)
  | _ => exact .inl rfl

/-- An instruction that raises an error has moved neither `pc` nor KEY_DEST (60_exceptions.md R210). -/
theorem Writes.keeps_of_error (h : Writes s i u) (he : errorRaisedBy i s = some e) :
    u.pc = s.pc ∧ u.keyDest = s.keyDest := by
  cases h with
  | retEmpty | callFull | draw | getKeyFailed => exact ⟨rfl, rfl⟩
  | dumpRegisters => exact ⟨s.dumped_pc _, s.dumped_keyDest _⟩
  | retLive h => exact nomatch (if_neg h).symm.trans he
  | callRoom _ h => exact nomatch (if_neg (Nat.not_le.2 h)).symm.trans he
  | getKeyFound x k hk | getKeyWaits x hk =>
    rw [errorRaisedBy, hk] at he
    exact nomatch he
  | _ => exact nomatch he

/-- The error an instruction raises is latched (60_exceptions.md R209). -/
theorem exec_haltedWith (h : exec i s = .next t) (he : errorRaisedBy i s = some e) : HaltedWith e s t := by
  obtain ⟨u, hu, rfl⟩ := exec_inv h
  obtain ⟨-, hkey⟩ := hu.keeps_of_error he
  rw [he]
  exact ⟨rfl, rfl, rfl, hkey⟩

/-- An instruction that raises no error does not halt a core. -/
theorem exec_mode_ne_halted (h : exec i s = .next t) (he : errorRaisedBy i s = none) (hs : s.mode ≠ .halted) :
    t.mode ≠ .halted := by
  obtain ⟨u, hu, rfl⟩ := exec_inv h
  rw [he, State.raiseIf_none]
  rcases hu.mode_eq_or_waits with hmode | ⟨x, -, -, rfl⟩
  · rwa [hmode]
  · exact nofun

/-- Where an instruction ends with the core halted, `pc` is past it (60_exceptions.md R210). -/
theorem exec_pc_of_halted (h : exec i s = .next t) (hs : s.mode ≠ .halted) (ht : t.mode = .halted) : t.pc = s.pc := by
  match he : errorRaisedBy i s with
  | none => exact absurd ht (exec_mode_ne_halted h he hs)
  | some e =>
    obtain ⟨u, hu, rfl⟩ := exec_inv h
    rw [State.raiseIf_pc]
    exact (hu.keeps_of_error he).1

/-- An execute phase that starts a wait is a GetKey's that finds no key (10_state.md R33). -/
theorem exec_waits (h : exec i s = .next t) (hs : s.mode ≠ .waitingForKey) (ht : t.mode = .waitingForKey) :
    ∃ x, i = .getKey x ∧ s.keyReport = .noKey ∧ t = s.pollKey.waitFor x := by
  obtain ⟨u, hu, rfl⟩ := exec_inv h
  rcases Option.eq_none_or_eq_some (errorRaisedBy i s) with he | ⟨e, he⟩ <;> rw [he] at ht ⊢
  · exact hu.mode_eq_or_waits.resolve_left fun hmode => hs (hmode.symm.trans ht)
  · exact nomatch ht

/-- Settles O12: the error of each way the step can end is the one `stepRaises` names for it. -/
theorem stepHaltsExactlyOnErrors : Obligations.StepHaltsExactlyOnErrors := by
  intro s hrun
  obtain ⟨t, hstep, ht⟩ := step_of_running hrun
  refine ⟨t, hstep, ?_⟩
  cases ht with
  | unfetchable hpc hraises =>
    rw [hraises]
    refine ⟨by simp, ?_⟩
    rintro _ ⟨⟩
    exact s.raise_haltedWith _
  | illegal hpc hraises =>
    rw [hraises]
    refine ⟨by simp, ?_⟩
    rintro _ ⟨⟩
    exact s.advancePc.raise_haltedWith _
  | executes hpc hdecode hexec hraises =>
    rw [hraises]
    refine ⟨⟨fun hhalted hnone => ?_, fun hsome => ?_⟩, fun e he => exec_haltedWith (s := s.advancePc) hexec he⟩
    · exact exec_mode_ne_halted hexec hnone (by simp [hrun]) hhalted
    · obtain ⟨e, he⟩ := Option.ne_none_iff_exists'.1 hsome
      exact (exec_haltedWith hexec he).1

/-- Settles O13: a refused fetch keeps `pc`, and past it `pc` has advanced once and the failing instruction keeps it. -/
theorem haltedProgramCounterLocatesFailure : Obligations.HaltedProgramCounterLocatesFailure := by
  intro s t hrun hstep hhalted
  cases RunningStep.of_step hrun hstep with
  | unfetchable hpc => rw [if_neg (Nat.not_le.2 hpc), State.raise_pc]
  | illegal hpc => rw [if_pos hpc, State.raise_pc, State.advancePc_pc]
  | executes hpc hdecode hexec =>
    rw [if_pos hpc, exec_pc_of_halted hexec (by simp [hrun]) hhalted, State.advancePc_pc]

/-- Settles O14: a step that halts is not a wait, and of the instructions only GetKey writes MODE. -/
theorem onlyGetKeyEntersWait : Obligations.OnlyGetKeyEntersWait := by
  intro s t hrun hstep hwait
  cases RunningStep.of_step hrun hstep with
  | unfetchable | illegal => exact nomatch hwait
  | executes hpc hdecode hexec =>
    obtain ⟨x, rfl, hk, rfl⟩ := exec_waits hexec (by simp [hrun]) hwait
    exact ⟨x, hdecode, hk, rfl, rfl⟩

/-! The step of a waiting core, by the keypad's report (45_keyboard.md R171). -/

/-- The state of a core that goes on running. -/
def State.resume (s : State) : State := { s with mode := .running }

theorem State.resumeGetKey_of_key {k : Fin 16} (h : s.keyReport = .key k) :
    s.resumeGetKey = (s.pollKey.setReg s.keyDest (zextKey k)).resume := by
  rw [State.resumeGetKey, h]
  rfl

theorem State.resumeGetKey_of_failure (h : s.keyReport = .failure) :
    s.resumeGetKey = s.pollKey.raise .keyboardError := by
  rw [State.resumeGetKey, h]

theorem State.resumeGetKey_of_noKey (h : s.keyReport = .noKey) : s.resumeGetKey = s.pollKey := by
  rw [State.resumeGetKey, h]

/-- The same machine with other memory, `pc`, `I` and random input: all that a waiting core does not read. -/
def State.withUnread (s : State) (m : Memory) (p j : Addr) (bytes : List Byte) (d : Nat) : State :=
  { s with mem := m, pc := p, i := j, randInput := bytes, draws := d }

/-- A waiting core's examination of the keypad commutes with what it does not read. -/
theorem State.resumeGetKey_withUnread (s : State) (m : Memory) (p j : Addr) (bytes : List Byte) (d : Nat) :
    (s.withUnread m p j bytes d).resumeGetKey = s.resumeGetKey.withUnread m p j bytes d := by
  match hk : s.keyReport with
  | .key k =>
    rw [State.resumeGetKey_of_key hk, State.resumeGetKey_of_key (s := s.withUnread m p j bytes d) hk]
    rfl
  | .failure =>
    rw [State.resumeGetKey_of_failure hk, State.resumeGetKey_of_failure (s := s.withUnread m p j bytes d) hk]
    rfl
  | .noKey =>
    rw [State.resumeGetKey_of_noKey hk, State.resumeGetKey_of_noKey (s := s.withUnread m p j bytes d) hk]
    rfl

/-- Settles O11: both steps are the examination of the keypad. -/
theorem waitingStepReadsOnlyKeypad : Obligations.WaitingStepReadsOnlyKeypad := by
  intro s t m p j bytes d hwait hstep
  cases hstep.symm.trans (step_of_waiting s hwait)
  exact (step_of_waiting (s.withUnread m p j bytes d) hwait).trans
    (congrArg _ (s.resumeGetKey_withUnread m p j bytes d))

end Sys2Proof.Machine
end

section
/-! The invariant (10_state.md section 9): power-on meets it, every step and every host operation keeps it. One lemma per
operation says how the operation keeps it; an instruction is a case analysis of `Writes`, and halt entry comes last. -/

namespace Sys2Proof.Machine

theorem defaultParams_isLegal : defaultParams.Legal where
  stackDepthFits := by decide
  pcHolds := by decide
  stackMatches := rfl
  fontReserved := by decide
  fontComplete := rfl

@[simp] theorem State.powerOn_stackEntry (p : Params) (k : Nat) : (State.powerOn p).stackEntry k = 0x0000#16 := by
  rw [State.stackEntry, State.powerOn, List.getD_eq_getElem?_getD, List.getElem?_replicate]
  split <;> rfl

theorem State.powerOn_inv {p : Params} (h : p.Legal) : (State.powerOn p).Inv where
  paramsLegal := h
  memCanonical := rfl
  indexBound := Nat.zero_le _
  pcBound := show Config.progBase.toNat ≤ 0x10FE by decide
  stackShaped := ⟨List.length_replicate, Nat.zero_le _⟩
  stackBound := nofun
  haltedIff := by simp [State.powerOn]
  noInfo := fun _ => rfl
  causeFromStep := nofun
  grantFree := nofun

/-- Settles O15: the default parameters are legal. -/
theorem resetMeetsBounds : Obligations.ResetMeetsBounds :=
  ⟨State.powerOn_inv defaultParams_isLegal, fun _ h => State.powerOn_inv h⟩

namespace State.Inv

variable {s : State} (h : s.Inv)
include h

/-! Updates of what the invariant does not speak of. -/

theorem setReg (r : RegIdx) (v : Byte) : (s.setReg r v).Inv := { h with }

theorem setFlagThenReg (flag : Bool) (r : RegIdx) (v : Byte) : (s.setFlagThenReg flag r v).Inv :=
  (h.setReg vf _).setReg r v

theorem pollKey : s.pollKey.Inv := { h with }

theorem takeRandom : s.takeRandom.Inv := { h with }

theorem setFb_releaseFb (fb : Framebuffer) : (s.setFb fb).releaseFb.Inv := { h with grantFree := nofun }

/-! Updates of what it bounds. -/

theorem setPc {target : Addr} (ht : target.toNat ≤ 0x10FE) : (s.setPc target).Inv := { h with pcBound := ht }

theorem setIndex {v : Addr} (hv : v.toNat ≤ 0x1000) : (s.setIndex v).Inv := { h with indexBound := hv }

theorem putBytes {a : Nat} {bytes : List Byte} (ha : a + bytes.length ≤ Config.memSize) : (s.putBytes a bytes).Inv := by
  rw [s.putBytes_eq]
  exact { h with memCanonical := State.wf_putBytes ha h.memCanonical }

theorem dumped (bytes : List Byte) (hlen : bytes.length ≤ 16) : (s.dumped bytes).Inv := by
  have hi : s.i.toNat ≤ Config.memSize := h.indexBound
  refine (h.putBytes (a := s.i.toNat) (bytes := bytes.take (Config.memSize - s.i.toNat)) ?_).setIndex ?_
  · rw [List.length_take]
    omega
  · have hmoved := s.dumped_i_toNat hlen
    rw [State.dumped, State.setIndex_i] at hmoved
    rw [hmoved]
    show _ ≤ Config.memSize
    omega

/-- A pop takes a live entry into `pc`, and the entries below it stay live (42_control_flow.md R124). -/
theorem returned (hsp : s.sp ≠ 0) : s.returned.Inv := by
  obtain ⟨hlen, hdepth⟩ := h.stackShaped
  exact { h with
    pcBound := (h.stackBound _ (by omega)).trans (by decide)
    stackShaped := ⟨hlen, (Nat.sub_le _ _).trans hdepth⟩
    stackBound := fun k hk => h.stackBound k (hk.trans_le (Nat.sub_le _ _)) }

/-- A push of an address in bounds makes one more live entry, and the jump's address is in bounds (42_control_flow.md
R123). -/
theorem called {target : Addr} (hsp : s.sp < s.params.stackDepth) (hpc : s.pc.toNat ≤ 0x1000)
    (ht : target.toNat ≤ 0x10FE) : (s.called target).Inv := by
  obtain ⟨hlen, hdepth⟩ := h.stackShaped
  exact { h with
    pcBound := ht
    stackShaped := ⟨List.length_set.trans hlen, hsp⟩
    stackBound := fun k hk => by
      rw [State.stackEntry, State.called, stackEntry_set (hlen ▸ hsp)]
      split
      · exact hpc
      · rename_i hne
        exact h.stackBound k (Nat.lt_of_le_of_ne (Nat.le_of_lt_succ hk) hne) }

/-- A skip moves `pc` by one instruction at most (42_control_flow.md R125). -/
theorem skipIf (c : Bool) (hpc : s.pc.toNat ≤ 0x1000) : (s.skipIf c).Inv := by
  rw [State.skipIf_eq]
  refine h.setPc ?_
  split
  · rw [BitVec.toNat_add, BitVec.toNat_ofNat]
    omega
  · exact hpc.trans (by decide)

/-! Updates of MODE and the halt record. -/

/-- Halt entry with an error a step can raise (60_exceptions.md R209). -/
theorem raise {e : CoreError} (he : e.cause.fromStep) : (s.raise e).Inv :=
  { h with
    haltedIff := by cases e <;> simp [CoreError.cause]
    noInfo := fun hne => absurd rfl hne
    causeFromStep := he }

theorem waitFor (x : RegIdx) (hm : s.mode ≠ .halted) : (s.waitFor x).Inv :=
  { h with
    haltedIff := ⟨nofun, fun hc => absurd (h.haltedIff.2 hc) hm⟩
    noInfo := fun _ => h.noInfo hm }

theorem resume (hm : s.mode ≠ .halted) : s.resume.Inv :=
  { h with
    haltedIff := ⟨nofun, fun hc => absurd (h.haltedIff.2 hc) hm⟩
    noInfo := fun _ => h.noInfo hm }

end State.Inv

variable {s t : State}

theorem toNat_zextAddr_le (addr : Addr12) : (zextAddr addr).toNat ≤ 0x10FE :=
  (Nat.le_of_lt (zextAddr_lt_memSize addr)).trans (by decide)

/-- The sum of GotoPlusV0 is exact (42_control_flow.md R122). -/
theorem toNat_zextAddr_add_zextByte (addr : Addr12) (b : Byte) :
    (zextAddr addr + zextByte b).toNat = addr.toNat + b.toNat := by
  have ha := addr.isLt
  have hb := b.isLt
  rw [BitVec.toNat_add, toNat_zextAddr, zextByte, BitVec.toNat_setWidth_of_le (by decide)]
  omega

/-- An instruction raises no error of the register test port (10_state.md R22). -/
theorem cause_fromStep_of_errorRaisedBy {i : Instr} {e : CoreError} (h : errorRaisedBy i s = some e) :
    e.cause.fromStep := by
  cases i with
  | ret | callSubroutine | draw | dumpRegisters | getKey =>
    obtain ⟨-, ⟨⟩⟩ := Option.ite_none_right_eq_some.1 h
    exact nofun
  | _ => exact nomatch h

/-- The writes of an instruction fetched by a Running core, whose `pc` is at most the end of memory, keep the invariant. -/
theorem Writes.keeps_inv {i : Instr} {u : State} (h : Writes s i u) (hs : s.Inv) (hrun : s.mode ≠ .halted)
    (hpc : s.pc.toNat ≤ 0x1000) : u.Inv := by
  cases h with
  | clearDisplay | draw => exact hs.setFb_releaseFb _
  | retEmpty | call | callFull => exact hs
  | retLive h => exact hs.returned h
  | callRoom addr h => exact hs.called h hpc (toNat_zextAddr_le addr)
  | goto addr => exact hs.setPc (toNat_zextAddr_le addr)
  | gotoPlusV0 addr =>
    refine hs.setPc ?_
    rw [toNat_zextAddr_add_zextByte]
    exact Nat.add_le_add (Nat.le_of_lt_succ addr.isLt) (Nat.le_of_lt_succ (s.reg v0).isLt)
  | skipIfRegisterEquals | skipIfRegisterNotEquals | skipIfRegistersEqual => exact hs.skipIf _ hpc
  | setRegister | addToRegister | copyRegister | or | and | xor => exact hs.setReg _ _
  | addRegisters | subtractRegisters => exact hs.setFlagThenReg _ _ _
  | setI addr => exact hs.setIndex (Nat.le_of_lt (zextAddr_lt_memSize addr))
  | setRegisterRandomAnd => exact hs.takeRandom.setReg _ _
  | dumpRegisters x => exact hs.dumped _ (State.length_regsUpTo.trans_le x.isLt)
  | getKeyFound => exact hs.pollKey.setReg _ _
  | getKeyFailed => exact hs.pollKey
  | getKeyWaits x => exact hs.pollKey.waitFor x hrun

/-- A Running core's step keeps the invariant: `pc` advances to the end of memory at most. -/
theorem RunningStep.keeps_inv (h : RunningStep s t) (hs : s.Inv) (hrun : s.mode = .running) : t.Inv := by
  have hadvanced (hpc : s.pc.toNat + 2 ≤ Config.memSize) : s.advancePc.pc.toNat ≤ 0x1000 := by
    rw [State.advancePc_pc, BitVec.toNat_add, BitVec.toNat_ofNat]
    have hmem : s.pc.toNat + 2 ≤ 0x1000 := hpc
    omega
  have hfetched (hpc : s.pc.toNat + 2 ≤ Config.memSize) : s.advancePc.Inv :=
    hs.setPc ((hadvanced hpc).trans (by decide))
  cases h with
  | unfetchable => exact hs.raise nofun
  | illegal hpc => exact (hfetched hpc).raise nofun
  | @executes i _ hpc _ hexec =>
    obtain ⟨u, hu, rfl⟩ := exec_inv hexec
    have hwritten : u.Inv := hu.keeps_inv (hfetched hpc) (by simp [hrun]) (hadvanced hpc)
    rcases Option.eq_none_or_eq_some (errorRaisedBy i s.advancePc) with he | ⟨e, he⟩ <;> rw [he]
    · exact hwritten
    · exact hwritten.raise (cause_fromStep_of_errorRaisedBy he)

/-- A waiting core's step keeps the invariant. -/
theorem State.Inv.resumeGetKey (h : s.Inv) (hwait : s.mode ≠ .halted) : s.resumeGetKey.Inv := by
  match hk : s.keyReport with
  | .key k =>
    rw [State.resumeGetKey_of_key hk]
    exact (h.pollKey.setReg _ _).resume hwait
  | .failure =>
    rw [State.resumeGetKey_of_failure hk]
    exact h.pollKey.raise nofun
  | .noKey =>
    rw [State.resumeGetKey_of_noKey hk]
    exact h.pollKey

/-- Settles O16: mode by mode. -/
theorem stepKeepsBounds : Obligations.StepKeepsBounds := by
  intro s t hs hstep
  match hmode : s.mode with
  | .running => exact (RunningStep.of_step hmode hstep).keeps_inv hs hmode
  | .waitingForKey =>
    cases hstep.symm.trans (step_of_waiting s hmode)
    exact hs.resumeGetKey (by simp [hmode])
  | .halted =>
    cases hstep.symm.trans (step_of_halted s hmode)
    exact hs

/-! The host's operations. An accepted one is an update already known: a copy of bytes, a register write, a grant. -/

theorem State.eq_of_load {offset : Addr} {bytes : List Byte} (h : s.load offset bytes = .ok t) :
    offset.toNat + bytes.length ≤ Config.memSize ∧ t = s.putBytes offset.toNat bytes := by
  rcases Nat.lt_or_ge Config.memSize (offset.toNat + bytes.length) with hout | hin
  · exact nomatch h.symm.trans (State.load_error hout)
  · exact ⟨hin, Except.ok.inj (h.symm.trans (State.load_ok hin))⟩

theorem State.portSet_ok {index : Word} (v : Byte) (h : index.toNat < 16) :
    s.portSet index v = .ok (s.setReg ⟨index.toNat, h⟩ v) := dif_pos h

theorem State.portSet_error {index : Word} (v : Byte) (h : 16 ≤ index.toNat) :
    s.portSet index v = .error (.registerInvalidIndex index) := dif_neg (Nat.not_lt.2 h)

theorem State.eq_of_portSet {index : Word} {v : Byte} (h : s.portSet index v = .ok t) : ∃ r, t = s.setReg r v := by
  rcases Nat.lt_or_ge index.toNat 16 with hin | hout
  · exact ⟨_, Except.ok.inj (h.symm.trans (State.portSet_ok v hin))⟩
  · exact nomatch h.symm.trans (State.portSet_error v hout)

/-- The same machine with the grant at another holder (50_interfaces.md R189). -/
def State.withGrant (s : State) (g : Grant) : State := { s with fbGrant := g }

theorem State.rendererRequest_of_free (h : s.fbGrant = .nobody) : s.rendererRequest = some (s.withGrant .renderer) := by
  rw [State.rendererRequest, h]
  rfl

theorem State.rendererRequest_of_held (h : s.fbGrant ≠ .nobody) : s.rendererRequest = none := by
  unfold State.rendererRequest
  split
  · exact absurd ‹_› h
  · rfl
  · rfl

theorem State.eq_of_rendererRequest (h : s.rendererRequest = some t) : t = s.withGrant .renderer := by
  by_cases hfree : s.fbGrant = .nobody
  · exact Option.some.inj (h.symm.trans (State.rendererRequest_of_free hfree))
  · exact nomatch h.symm.trans (State.rendererRequest_of_held hfree)

theorem State.rendererRelease_of_held (h : s.fbGrant = .renderer) : s.rendererRelease = s.withGrant .nobody := by
  rw [State.rendererRelease, h]
  rfl

theorem State.rendererRelease_of_not_held (h : s.fbGrant ≠ .renderer) : s.rendererRelease = s := by
  unfold State.rendererRelease
  split
  · exact absurd ‹_› h
  · rfl
  · rfl

theorem State.Inv.withGrant (h : s.Inv) {g : Grant} (hg : g ≠ .core) : (s.withGrant g).Inv := { h with grantFree := hg }

theorem State.Inv.rendererRelease (h : s.Inv) : s.rendererRelease.Inv := by
  by_cases hheld : s.fbGrant = .renderer
  · rw [State.rendererRelease_of_held hheld]
    exact h.withGrant nofun
  · rwa [State.rendererRelease_of_not_held hheld]

theorem State.Inv.softReset (h : s.Inv) : s.softReset.Inv := by
  obtain ⟨hlen, -⟩ := h.stackShaped
  exact { h with
    pcBound := show Config.progBase.toNat ≤ 0x10FE by decide
    stackShaped := ⟨hlen, Nat.zero_le _⟩
    stackBound := nofun
    haltedIff := by simp
    noInfo := fun _ => rfl
    causeFromStep := nofun }

/-- Settles O19: operation by operation. -/
theorem hostOperationsKeepBounds : Obligations.HostOperationsKeepBounds := by
  intro s hs
  refine ⟨fun offset bytes t h => ?_, hs.softReset, fun index v t h => ?_, fun t h => ?_, hs.rendererRelease⟩
  · obtain ⟨hin, rfl⟩ := State.eq_of_load h
    exact hs.putBytes hin
  · obtain ⟨r, rfl⟩ := State.eq_of_portSet h
    exact hs.setReg r v
  · rw [State.eq_of_rendererRequest h]
    exact hs.withGrant nofun

/-! The parameters (00_scope.md R5) are no instruction's part, and no other operation writes them. -/

theorem exec_params {i : Instr} (h : exec i s = .next t) : t.params = s.params :=
  exec_sameExcept h .params (by cases i <;> simp [partsWrittenBy])

theorem State.resumeGetKey_params (s : State) : s.resumeGetKey.params = s.params := by
  unfold State.resumeGetKey
  split <;> rfl

theorem step_params (h : step s = .next t) : t.params = s.params := by
  match hmode : s.mode with
  | .running =>
    cases RunningStep.of_step hmode h with
    | unfetchable | illegal => rfl
    | executes hpc hdecode hexec => exact exec_params (s := s.advancePc) hexec
  | .waitingForKey =>
    cases h.symm.trans (step_of_waiting s hmode)
    exact s.resumeGetKey_params
  | .halted =>
    cases h.symm.trans (step_of_halted s hmode)
    rfl

/-- Settles O18: an accepted operation's next state is an update that leaves the parameters. -/
theorem parametersNeverChange : Obligations.ParametersNeverChange := by
  intro s
  refine ⟨fun t h => step_params h, fun offset bytes t h => ?_, rfl, fun index v t h => ?_, fun _ => rfl,
    fun t h => ?_, ?_⟩
  · obtain ⟨-, rfl⟩ := State.eq_of_load h
    exact s.putBytes_params _ _
  · obtain ⟨r, rfl⟩ := State.eq_of_portSet h
    rfl
  · rw [State.eq_of_rendererRequest h]
    rfl
  · unfold State.rendererRelease
    split <;> rfl

end Sys2Proof.Machine
end

section
/-! ClearDisplay and Draw (41_display.md). -/

namespace Sys2Proof.Machine

theorem exec_clearDisplay (s : State) : exec .clearDisplay s = .next (s.setFb Framebuffer.clear).releaseFb := rfl

/-- Settles O22: the framebuffer written is the clear one, and the grant is given back. -/
theorem clearDisplayClearsEveryCell : Obligations.ClearDisplayClearsEveryCell :=
  ⟨decode_encode (i := .clearDisplay) rfl, fun s => ⟨_, exec_clearDisplay s, Framebuffer.cell_clear, rfl,
    s.setFb_releaseFb_sameExcept _⟩⟩

/-- Settles O23: every row's byte is in memory, so Draw raises nothing and draws all `n` rows. -/
theorem drawOverwritesClippedWindow : Obligations.DrawOverwritesClippedWindow := by
  intro x y n s
  refine ⟨decode_encode (i := .draw x y n) rfl, fun hfits => ?_⟩
  obtain ⟨fb, hcell, hexec⟩ := exec_draw x y n s
  have hok : errorRaisedBy (.draw x y n) s = none := if_neg (by omega)
  have hrows : min n.val (Config.memSize - s.i.toNat) = n.val := by omega
  rw [hok] at hexec
  rw [hrows] at hcell
  exact ⟨_, hexec, hcell, rfl, s.setFb_releaseFb_sameExcept fb⟩

/-- Settles O24: the rows drawn are those whose bytes are in memory, and the first byte past them raises. -/
theorem drawHaltsAtFirstRefusedRow : Obligations.DrawHaltsAtFirstRefusedRow := by
  intro x y n s hn hover
  obtain ⟨fb, hcell, hexec⟩ := exec_draw x y n s
  have herr : errorRaisedBy (.draw x y n) s = some (.memoryOutOfBounds (.ofNat 16 (max s.i.toNat Config.memSize))) :=
    if_pos ⟨hn, hover⟩
  have hrows : min n.val (Config.memSize - s.i.toNat) = Config.memSize - s.i.toNat := by omega
  rw [herr] at hexec
  rw [hrows] at hcell
  exact ⟨_, hexec, State.raise_haltedWith _ _, hcell, rfl, (s.setFb_releaseFb_sameExcept fb).raise _⟩

end Sys2Proof.Machine
end

section
/-! Call, GotoPlusV0, CallSubroutine, Return and the skips (42_control_flow.md). -/

namespace Sys2Proof.Machine

variable {s : State}

/-- Settles O25: the word is Call's unless it is one of the two single words above its row. -/
theorem callChangesNothing : Obligations.CallChangesNothing := fun addr _ =>
  ⟨fun h0 hE => decode_encode (i := .call addr) (by simp [Instr.WellFormed, Instr.wf, h0, hE]), rfl⟩

theorem exec_gotoPlusV0 (addr : Addr12) (s : State) :
    exec (.gotoPlusV0 addr) s = .next (s.setPc (zextAddr addr + zextByte (s.reg v0))) := rfl

/-- Settles O27: the 16-bit sum of a 12-bit address and a byte does not wrap. -/
theorem gotoPlusV0AddsV0Exactly : Obligations.GotoPlusV0AddsV0Exactly := fun addr s =>
  ⟨decode_encode (i := .gotoPlusV0 addr) rfl, _, exec_gotoPlusV0 addr s, toNat_zextAddr_add_zextByte addr _,
    s.setPc_sameExcept _⟩

/-- The stack after a push of `pc` (42_control_flow.md R123). -/
theorem State.called_stackEntry (target : Addr) (h : s.sp < s.stack.length) (k : Nat) :
    (s.called target).stackEntry k = if k = s.sp then s.pc else s.stackEntry k := stackEntry_set h

/-- Settles O28: the push writes the entry at `sp` alone. -/
theorem callSubroutinePushesReturnAddress : Obligations.CallSubroutinePushesReturnAddress := by
  intro addr s
  refine ⟨decode_encode (i := .callSubroutine addr) rfl, fun hlen hroom => ?_⟩
  have hsp : s.sp < s.stack.length := hlen ▸ hroom
  refine ⟨_, exec_callSubroutine_of_room addr hroom, toNat_zextAddr addr, rfl, ?_, fun k hk => ?_, List.length_set,
    s.called_sameExcept _⟩
  · rw [State.called_stackEntry _ hsp, if_pos rfl]
  · rw [State.called_stackEntry _ hsp, if_neg hk]

/-- Settles O30: with `k + 1` live entries the pop reads entry `k`. -/
theorem returnPopsIntoProgramCounter : Obligations.ReturnPopsIntoProgramCounter := by
  refine ⟨decode_encode (i := .ret) rfl, fun s k hsp => ?_⟩
  have hk : s.sp - 1 = k := by rw [hsp, Nat.add_sub_cancel]
  exact ⟨_, exec_ret_of_live (hsp ▸ Nat.succ_ne_zero k), hk, congrArg s.stackEntry hk, rfl, s.returned_sameExcept⟩

/-- Settles O32: the pop reads the entry the push wrote, and the entries below it are the caller's. -/
theorem returnResumesAfterCall : Obligations.ReturnResumesAfterCall := by
  intro addr s t u hlen hroom hcall hsp hstack
  cases hcall.symm.trans (exec_callSubroutine_of_room addr hroom)
  have hentry (k : Nat) : u.stackEntry k = if k = s.sp then s.pc else s.stackEntry k := by
    rw [State.stackEntry, hstack]
    exact State.called_stackEntry _ (hlen ▸ hroom) k
  have hlive : u.sp - 1 = s.sp := by
    rw [hsp]
    exact Nat.add_sub_cancel (n := s.sp) (m := 1)
  refine ⟨_, exec_ret_of_live (hsp ▸ Nat.succ_ne_zero _), ?_, hlive, fun k hk => ?_⟩
  · show u.stackEntry (u.sp - 1) = s.pc
    rw [hlive, hentry, if_pos rfl]
  · exact (hentry k).trans (if_neg hk.ne)

theorem State.skipIf_pc (c : Bool) : (s.skipIf c).pc = if c then s.pc + 2#16 else s.pc := by
  rw [State.skipIf_eq, State.setPc_pc]

theorem exec_skipIfRegisterEquals (x : RegIdx) (imm8 : Byte) (s : State) :
    exec (.skipIfRegisterEquals x imm8) s = .next (s.skipIf (s.reg x == imm8)) := rfl

theorem exec_skipIfRegisterNotEquals (x : RegIdx) (imm8 : Byte) (s : State) :
    exec (.skipIfRegisterNotEquals x imm8) s = .next (s.skipIf (s.reg x != imm8)) := rfl

theorem exec_skipIfRegistersEqual (x y : RegIdx) (s : State) :
    exec (.skipIfRegistersEqual x y) s = .next (s.skipIf (s.reg x == s.reg y)) := rfl

/-- Settles O33: each skip is `State.skipIf` of its condition. -/
theorem skipsAdvanceOnCondition : Obligations.SkipsAdvanceOnCondition := by
  intro x y imm8 s
  refine ⟨⟨decode_encode (i := .skipIfRegisterEquals x imm8) rfl, _, exec_skipIfRegisterEquals x imm8 s, ?_,
      s.skipIf_sameExcept _⟩,
    ⟨decode_encode (i := .skipIfRegisterNotEquals x imm8) rfl, _, exec_skipIfRegisterNotEquals x imm8 s, ?_,
      s.skipIf_sameExcept _⟩,
    ⟨decode_encode (i := .skipIfRegistersEqual x y) rfl, _, exec_skipIfRegistersEqual x y s, ?_,
      s.skipIf_sameExcept _⟩⟩
  · simp [State.skipIf_pc]
  · simp [State.skipIf_pc]
  · simp [State.skipIf_pc]

end Sys2Proof.Machine
end

section
/-! The register and ALU instructions that take two registers, and SetRegisterRandomAnd (43_register_alu.md). -/

namespace Sys2Proof.Machine

variable (x y : RegIdx) (s : State)

theorem exec_copyRegister : exec (.copyRegister x y) s = .next (s.setReg x (s.reg y)) := rfl
theorem exec_or : exec (.or x y) s = .next (s.setReg x (s.reg x ||| s.reg y)) := rfl
theorem exec_and : exec (.and x y) s = .next (s.setReg x (s.reg x &&& s.reg y)) := rfl
theorem exec_xor : exec (.xor x y) s = .next (s.setReg x (s.reg x ^^^ s.reg y)) := rfl
theorem exec_addRegisters : exec (.addRegisters x y) s =
    .next (s.setFlagThenReg (carryOut (s.reg x) (s.reg y)) x (wrappedSum (s.reg x) (s.reg y))) := rfl
theorem exec_subtractRegisters : exec (.subtractRegisters x y) s =
    .next (s.setFlagThenReg (borrowOut (s.reg x) (s.reg y)) x (wrappedDifference (s.reg x) (s.reg y))) := rfl
theorem exec_setRegisterRandomAnd (imm8 : Byte) : exec (.setRegisterRandomAnd x imm8) s =
    .next (s.takeRandom.setReg x (s.randomByte &&& imm8)) := rfl

/-- Settles O36: the instruction is the register write of `V[y]`. -/
theorem copyRegisterCopies : Obligations.CopyRegisterCopies := fun x y s =>
  ⟨decode_encode (i := .copyRegister x y) rfl, _, exec_copyRegister x y s, s.reg_setReg_same x _,
    fun _ hr => s.reg_setReg_ne _ hr, s.setReg_sameExcept x _⟩

/-- Settles O37: each is one register write of the bitwise result. -/
theorem bitwiseInstructionsLeaveFlag : Obligations.BitwiseInstructionsLeaveFlag := by
  intro x y s
  refine ⟨⟨decode_encode (i := .or x y) rfl, _, exec_or x y s, fun k => ?_, fun _ hr => s.reg_setReg_ne _ hr,
      s.setReg_sameExcept x _⟩,
    ⟨decode_encode (i := .and x y) rfl, _, exec_and x y s, fun k => ?_, fun _ hr => s.reg_setReg_ne _ hr,
      s.setReg_sameExcept x _⟩,
    ⟨decode_encode (i := .xor x y) rfl, _, exec_xor x y s, fun k => ?_, fun _ hr => s.reg_setReg_ne _ hr,
      s.setReg_sameExcept x _⟩⟩
  · rw [State.reg_setReg_same, BitVec.getLsbD_or]
  · rw [State.reg_setReg_same, BitVec.getLsbD_and]
  · rw [State.reg_setReg_same, BitVec.getLsbD_xor]

/-! The register file after the flag write and the result write (43_register_alu.md R149). -/

variable {x s} (flag : Bool) (v : Byte)

@[simp] theorem State.reg_setFlagThenReg_same : (s.setFlagThenReg flag x v).reg x = v := by
  rw [State.reg_setFlagThenReg, if_pos rfl]

theorem State.reg_setFlagThenReg_vf (hx : x ≠ 15) : (s.setFlagThenReg flag x v).reg 15 = flagByte flag := by
  rw [State.reg_setFlagThenReg, if_neg hx.symm, if_pos (show 15 = vf from rfl)]

theorem State.reg_setFlagThenReg_ne {r : RegIdx} (hx : r ≠ x) (hvf : r ≠ 15) :
    (s.setFlagThenReg flag x v).reg r = s.reg r := by
  rw [State.reg_setFlagThenReg, if_neg hx, if_neg (show r ≠ vf from hvf)]

variable (a b : Byte)

theorem wrappedSum_eq : wrappedSum a b = a + b := by
  rw [wrappedSum, BitVec.ofNat_add, BitVec.ofNat_toNat, BitVec.ofNat_toNat, BitVec.setWidth_eq, BitVec.setWidth_eq]

theorem wrappedDifference_eq : wrappedDifference a b = a - b := by
  rw [wrappedDifference, Int.sub_eq_add_neg, BitVec.ofInt_add, BitVec.ofInt_neg, BitVec.ofInt_natCast,
    BitVec.ofInt_natCast, BitVec.ofNat_toNat, BitVec.ofNat_toNat, BitVec.setWidth_eq, BitVec.setWidth_eq,
    BitVec.sub_eq_add_neg]

theorem flagByte_carryOut :
    flagByte (carryOut a b) = if a.toNat + b.toNat ≤ 255 then 0x00#8 else 0x01#8 := by
  by_cases h : a.toNat + b.toNat ≤ 255
  · rw [if_pos h, carryOut, decide_eq_false (Nat.not_lt.2 h)]
    rfl
  · rw [if_neg h, carryOut, decide_eq_true (Nat.not_le.1 h)]
    rfl

theorem flagByte_borrowOut : flagByte (borrowOut a b) = if b.toNat ≤ a.toNat then 0x00#8 else 0x01#8 := by
  by_cases h : b.toNat ≤ a.toNat
  · rw [if_pos h, borrowOut, decide_eq_false (Nat.not_lt.2 h)]
    rfl
  · rw [if_neg h, borrowOut, decide_eq_true (Nat.not_le.1 h)]
    rfl

/-- The wrapped difference as a number (43_register_alu.md R147). -/
theorem toNat_wrappedDifference : (wrappedDifference a b).toNat =
    if b.toNat ≤ a.toNat then a.toNat - b.toNat else a.toNat + 256 - b.toNat := by
  have ha := a.isLt
  have hb := b.isLt
  rw [wrappedDifference_eq, BitVec.toNat_sub]
  split <;> omega

/-- Settles O38: the flag is the carry, and every other register but the two written keeps its value. -/
theorem addRegistersSumsWithCarry : Obligations.AddRegistersSumsWithCarry := fun x y s =>
  ⟨decode_encode (i := .addRegisters x y) rfl, _, exec_addRegisters x y s,
    (congrArg BitVec.toNat (State.reg_setFlagThenReg_same _ _)).trans (toNat_wrappedSum _ _),
    fun hx => (State.reg_setFlagThenReg_vf _ _ hx).trans (flagByte_carryOut _ _),
    fun _ hr hvf => State.reg_setFlagThenReg_ne _ _ hr hvf, s.setFlagThenReg_sameExcept _ x _⟩

/-- Settles O39: the flag is the borrow, and every other register but the two written keeps its value. -/
theorem subtractRegistersSetsFlagOnBorrow : Obligations.SubtractRegistersSetsFlagOnBorrow := fun x y s =>
  ⟨decode_encode (i := .subtractRegisters x y) rfl, _, exec_subtractRegisters x y s,
    (congrArg BitVec.toNat (State.reg_setFlagThenReg_same _ _)).trans (toNat_wrappedDifference _ _),
    fun hx => (State.reg_setFlagThenReg_vf _ _ hx).trans (flagByte_borrowOut _ _),
    fun _ hr hvf => State.reg_setFlagThenReg_ne _ _ hr hvf, s.setFlagThenReg_sameExcept _ x _⟩

/-- Settles O40: the result is written last. -/
theorem resultWinsOverFlagInVF : Obligations.ResultWinsOverFlagInVF := by
  intro x y s
  rw [← wrappedSum_eq, ← wrappedDifference_eq]
  refine ⟨⟨_, exec_addRegisters x y s, State.reg_setFlagThenReg_same _ _, ?_, State.reg_setFlagThenReg_vf _ _⟩,
    ⟨_, exec_subtractRegisters x y s, State.reg_setFlagThenReg_same _ _, ?_, State.reg_setFlagThenReg_vf _ _⟩⟩
  all_goals
    rintro rfl
    exact State.reg_setFlagThenReg_same _ _

/-- Settles O41: one byte is taken, and the register written is its masked value. -/
theorem randomByteIsMaskedIntoRegister : Obligations.RandomByteIsMaskedIntoRegister := by
  intro x imm8 s
  refine ⟨decode_encode (i := .setRegisterRandomAnd x imm8) rfl, _, exec_setRegisterRandomAnd x s imm8,
    State.reg_setReg_same _ x _, fun _ hr => State.reg_setReg_ne _ _ hr, rfl, fun r rest hinput => ?_,
    exec_sameExcept (exec_setRegisterRandomAnd x s imm8)⟩
  have hbyte : s.randomByte = r := by rw [State.randomByte, hinput, List.headD_cons]
  rw [State.reg_setReg_same, hbyte, State.setReg_randInput, State.takeRandom_randInput, hinput, List.tail_cons]
  exact ⟨rfl, rfl⟩

end Sys2Proof.Machine
end

section
/-! A dump seen by the next fetch (20_memory.md section 6), and the keypad (45_keyboard.md). -/

namespace Sys2Proof.Machine

variable {s : State} {x : RegIdx}

/-- Settles O44: the two bytes the fetch reads are the two registers the dump put there. -/
theorem dumpedBytesAreFetched : Obligations.DumpedBytesAreFetched := by
  intro x k k' s t hwf hfits hexec hk' hk'x hpc
  cases hexec.symm.trans (exec_dumpRegisters_of_fits hfits)
  have hk'x' : k'.val ≤ x.val := hk'x
  have hkx : k ≤ x := Fin.le_def.2 (by omega)
  have hlow : (s.dumped (s.regsUpTo x)).byteAt (s.i.toNat + k.val) = s.reg k :=
    State.byteAt_dumped_regsUpTo hwf hkx (by omega)
  have hhigh : (s.dumped (s.regsUpTo x)).byteAt (s.i.toNat + k'.val) = s.reg k' :=
    State.byteAt_dumped_regsUpTo hwf hk'x (by omega)
  rw [hk', ← Nat.add_assoc] at hhigh
  rw [State.fetch_eq, hpc, hlow, hhigh, if_pos (by omega)]
  rfl

/-- A key is zero-extended without loss. -/
theorem toNat_zextKey (k : Fin 16) : (zextKey k).toNat = k.val := by
  rw [zextKey, BitVec.toNat_ofNat]
  omega

/-- Settles O47: the examination finds the key, and the register write follows. -/
theorem getKeyStoresReportedKey : Obligations.GetKeyStoresReportedKey := by
  intro x k s hk
  refine ⟨decode_encode (i := .getKey x) rfl, _, exec_getKey_of_key x hk, ?_, fun _ hr => State.reg_setReg_ne _ _ hr,
    rfl, rfl, (s.pollKey_sameExcept.trans (State.setReg_sameExcept _ x _)).mono (by decide)⟩
  rw [State.reg_setReg_same, toNat_zextKey]

/-- Settles O48: the examination finds nothing, and the wait begins. -/
theorem getKeyWithoutKeyWaits : Obligations.GetKeyWithoutKeyWaits := fun x s hk =>
  ⟨_, exec_getKey_of_noKey x hk, rfl, rfl, rfl, rfl, rfl,
    (s.pollKey_sameExcept.trans (State.waitFor_sameExcept _ x)).mono (by decide)⟩

theorem State.pollKey_raise_sameExcept (s : State) (e : CoreError) :
    SameExcept [.run, .keypad] s (s.pollKey.raise e) :=
  (s.pollKey_sameExcept.raise e).mono (by decide)

/-- Settles O49: the examination fails, and halt entry follows. -/
theorem getKeyFailureHalts : Obligations.GetKeyFailureHalts := fun x s hk =>
  ⟨_, exec_getKey_of_failure x hk, s.pollKey.raise_haltedWith _, s.pollKey_raise_sameExcept _⟩

theorem State.resume_sameExcept (s : State) : SameExcept [.run] s s.resume := by
  intro p hp
  cases p with
  | run => exact absurd (List.mem_singleton_self _) hp
  | _ => simp [Part.Same, State.resume, State.reg, State.byteAt]

@[simp] theorem State.resume_reg (s : State) (r : RegIdx) : s.resume.reg r = s.reg r := rfl

/-- Settles O50: one clause per report. -/
theorem waitingCoreReexaminesKeypad : Obligations.WaitingCoreReexaminesKeypad := by
  intro s hwait
  refine ⟨_, step_of_waiting s hwait, fun k hk => ?_, fun hk => ?_, fun hk => ?_⟩
  · rw [State.resumeGetKey_of_key hk]
    refine ⟨rfl, ?_, fun r hr => State.reg_setReg_ne _ _ hr, rfl, rfl, rfl, ?_⟩
    · rw [State.resume_reg, State.reg_setReg_same, toNat_zextKey]
    · exact ((s.pollKey_sameExcept.trans (State.setReg_sameExcept _ _ _)).trans (State.resume_sameExcept _)).mono
        (by decide)
  · rw [State.resumeGetKey_of_failure hk]
    exact ⟨s.pollKey.raise_haltedWith _, s.pollKey_raise_sameExcept _⟩
  · rw [State.resumeGetKey_of_noKey hk]
    refine ⟨?_, s.pollKey_sameExcept⟩
    rw [State.outcome, State.pollKey_mode, hwait]

/-! A wait of any length. `State.keyed` is what a GetKey that completes after `polls` examinations leaves, the mode aside. -/

/-- The key stored, and the reports up to it consumed by that many examinations. -/
def State.keyed (s : State) (r : RegIdx) (k : Fin 16) (rest : List Config.KeyReport) (polls : Nat) : State :=
  { s.setReg r (zextKey k) with keyInput := rest, keyPolls := s.keyPolls + polls }

theorem core_run_one {t : State} (h : step s = .next t) : Sys2Proof.core.run 1 s = .next t := core_run_succ 0 h

/-- A waiting core runs through the reports of no key and completes at the key (45_keyboard.md R171). -/
theorem core_run_waiting (k : Fin 16) (rest : List Config.KeyReport) (n : Nat) {s : State} (hwait : s.mode = .waitingForKey)
    (hinput : s.keyInput = List.replicate n .noKey ++ .key k :: rest) :
    Sys2Proof.core.run (n + 1) s = .next (s.keyed s.keyDest k rest (n + 1)).resume := by
  induction n generalizing s with
  | zero =>
    have hk : s.keyReport = .key k := by rw [State.keyReport, hinput]; rfl
    have htail : s.keyInput.tail = rest := by rw [hinput]; rfl
    rw [core_run_one (step_of_waiting s hwait), State.resumeGetKey_of_key hk]
    simp only [State.keyed, State.resume, State.setReg, State.pollKey, htail]
  | succ n ih =>
    have hk : s.keyReport = .noKey := by rw [State.keyReport, hinput]; rfl
    have htail : s.pollKey.keyInput = List.replicate n .noKey ++ .key k :: rest := by
      rw [State.pollKey_keyInput, hinput]; rfl
    rw [core_run_succ (n + 1) (step_of_waiting s hwait), State.resumeGetKey_of_noKey hk,
      ih (s := s.pollKey) hwait htail]
    have hpolls : s.keyPolls + 1 + (n + 1) = s.keyPolls + (n + 1 + 1) := by omega
    simp only [State.keyed, State.resume, State.setReg, State.pollKey, hpolls]

/-- The same machine with another KEY_DEST. -/
def State.withKeyDest (s : State) (d : RegIdx) : State := { s with keyDest := d }

/-- The run over a GetKey whose key comes after `n` reports of no key: only KEY_DEST tells whether it waited
(45_keyboard.md R170, R171). -/
theorem core_run_getKey {k : Fin 16} {rest : List Config.KeyReport} {n : Nat} (hs : s.CanFetch)
    (hdecode : decode s.wordAtPc = .ok (.getKey x)) (hinput : s.keyInput = List.replicate n .noKey ++ .key k :: rest) :
    ∃ d, Sys2Proof.core.run (n + 1) s = .next ((s.advancePc.keyed x k rest (n + 1)).withKeyDest d) := by
  have hstep := step_of_canFetch hs hdecode
  cases n with
  | zero =>
    have hk : s.advancePc.keyReport = .key k := by rw [State.keyReport, State.advancePc_keyInput, hinput]; rfl
    have htail : s.advancePc.keyInput.tail = rest := by rw [State.advancePc_keyInput, hinput]; rfl
    refine ⟨s.keyDest, ?_⟩
    rw [core_run_one (hstep.trans (exec_getKey_of_key x hk)), State.keyed, ← htail]
    rfl
  | succ n =>
    have hk : s.advancePc.keyReport = .noKey := by rw [State.keyReport, State.advancePc_keyInput, hinput]; rfl
    have htail : (s.advancePc.pollKey.waitFor x).keyInput = List.replicate n .noKey ++ .key k :: rest := by
      show s.keyInput.tail = _
      rw [hinput]
      rfl
    refine ⟨x, ?_⟩
    rw [core_run_succ (n + 1) (hstep.trans (exec_getKey_of_noKey x hk)), core_run_waiting k rest n rfl htail]
    have hrun : s.mode = .running := hs.1
    have hpolls : s.keyPolls + 1 + (n + 1) = s.keyPolls + (n + 1 + 1) := by omega
    simp only [State.keyed, State.resume, State.withKeyDest, State.waitFor, State.setReg, State.pollKey, State.advancePc,
      State.setPc, hrun, hpolls]

/-- The effect of a completed GetKey does not depend on KEY_DEST, on the reports the state held, or on how many were
consumed. -/
theorem State.keyed_sameExcept (k : Fin 16) (rest reports : List Config.KeyReport) (polls polls' : Nat) (d d' : RegIdx) :
    SameExcept [.run, .keypad] ((State.keyed { s with keyInput := reports } x k rest polls).withKeyDest d)
      ((s.keyed x k rest polls').withKeyDest d') := by
  intro p hp
  cases p with
  | run | keypad => simp at hp
  | _ => simp [Part.Same, State.keyed, State.withKeyDest, State.setReg, State.reg, State.byteAt]

/-- Settles O51: both runs store the key and consume the reports up to it. -/
theorem waitedGetKeyEqualsImmediate : Obligations.WaitedGetKeyEqualsImmediate := by
  intro s x k n rest hs hdecode hinput
  have hrun : s.mode = .running := hs.1
  obtain ⟨d, ht⟩ := core_run_getKey hs hdecode hinput
  obtain ⟨d', hu⟩ := core_run_getKey (s := { s with keyInput := .key k :: rest }) (n := 0) hs hdecode rfl
  refine ⟨_, _, ht, hu, ?_, rfl, hrun, hrun, rfl, rfl, rfl, rfl, 
    State.keyed_sameExcept (s := s.advancePc) _ _ _ _ _ _ _⟩
  exact (congrArg BitVec.toNat (s.advancePc.reg_setReg_same x _)).trans (toNat_zextKey k)

end Sys2Proof.Machine
end

section
/-! Halt entry, the resets, and the host's side: the status port, the register test port, the snapshot and the arbiter
(60_exceptions.md sections 1 and 3; 50_interfaces.md sections 4 and 5; 70_reset_and_hazards.md section 1). -/

namespace Sys2Proof.Machine

variable {s t : State}

/-- Settles O52: halt entry in general, then the table of causes row by row. -/
theorem haltEntryLatchesError : Obligations.HaltEntryLatchesError :=
  ⟨fun s e => ⟨s.raise_haltedWith e, State.outcome_of_halted rfl, s.raise_sameExcept e⟩,
    fun _ _ => ⟨⟨rfl, rfl⟩, ⟨rfl, rfl⟩, ⟨rfl, rfl⟩, ⟨rfl, rfl⟩, ⟨rfl, rfl⟩, ⟨rfl, rfl⟩⟩,
    rfl, rfl, rfl, rfl, rfl, rfl, rfl⟩

theorem State.outcome_of_running (h : s.mode = .running) : s.outcome = .done := by
  rw [State.outcome, h]

theorem State.outcome_of_waiting (h : s.mode = .waitingForKey) : s.outcome = .suspended := by
  rw [State.outcome, h]

/-- The five bits of the port hold `sp` in a machine with legal parameters (10_state.md R29). -/
theorem State.toNat_status_spOut (hp : s.params.Legal) (hsp : s.sp ≤ s.params.stackDepth) :
    s.status.spOut.toNat = s.sp := by
  have hdepth := hp.stackDepthFits
  exact (BitVec.toNat_ofNat _ _).trans (Nat.mod_eq_of_lt (by omega))

/-- Settles O53: the outcome and MODE by mode, the rest as held. -/
theorem statusPortPresentsState : Obligations.StatusPortPresentsState := by
  intro s
  refine ⟨fun h => ?_, fun h => ?_, fun h => ?_, rfl, rfl, rfl, State.toNat_status_spOut⟩
  · have hout := State.outcome_of_running h
    exact ⟨hout, congrArg StepOutcome.code hout, congrArg Mode.code h⟩
  · have hout := State.outcome_of_waiting h
    exact ⟨hout, congrArg StepOutcome.code hout, congrArg Mode.code h⟩
  · have hout := State.outcome_of_halted h
    exact ⟨hout, congrArg StepOutcome.code hout, congrArg Mode.code h⟩

theorem State.powerOn_reg (p : Params) (r : RegIdx) : (State.powerOn p).reg r = 0x00#8 := by
  rw [State.reg, State.powerOn, Vector.getElem_replicate]

theorem State.powerOn_byteAt (p : Params) (a : Nat) : (State.powerOn p).byteAt a = initialByte p a := rfl

/-- The glyph table at power-on (20_memory.md R60). -/
theorem State.powerOn_byteAt_font {p : Params} (hp : p.Legal) {k : Nat} (hk : k < p.fontTable.length) :
    (State.powerOn p).byteAt (p.fontBase + k) = p.fontTable[k] := by
  rw [State.powerOn_byteAt, initialByte_font (hp.fontComplete ▸ hk), List.getD_eq_getElem _ _ hk]

/-- Settles O54: field by field for any legal parameters, then the defaults. -/
theorem powerOnState : Obligations.PowerOnState := by
  refine ⟨fun p hp => ?_, rfl, defaultParams_isLegal, rfl, rfl, rfl, rfl, rfl, rfl, rfl, rfl, rfl, rfl, rfl⟩
  exact ⟨rfl, rfl, rfl, rfl, rfl, rfl, rfl, State.powerOn_reg p, List.length_replicate, State.powerOn_stackEntry p,
    Framebuffer.cell_clear, rfl, fun _ hk => State.powerOn_byteAt_font hp hk, fun _ ha => initialByte_elsewhere ha⟩

theorem State.softReset_sameExcept (s : State) : SameExcept [.pc, .stack, .run] s s.softReset := by
  intro p hp
  cases p with
  | pc | stack | run => simp at hp
  | _ => simp [Part.Same]

/-- Settles O55: the fields restored, then the frame. -/
theorem softResetRestartsCore : Obligations.SoftResetRestartsCore := fun s =>
  ⟨rfl, rfl, rfl, rfl, rfl, rfl, rfl, s.softReset_sameExcept⟩

theorem State.portGet_ok {index : Word} (h : index.toNat < 16) : s.portGet index = .ok (s.reg ⟨index.toNat, h⟩) :=
  dif_pos h

theorem State.portGet_error {index : Word} (h : 16 ≤ index.toNat) :
    s.portGet index = .error (.registerInvalidIndex index) := dif_neg (Nat.not_lt.2 h)

/-- A register write is seen through the port at its own index alone. -/
theorem State.portGet_setReg_ne {r : RegIdx} {v : Byte} {other : Word} (h : other.toNat ≠ r.val) :
    (s.setReg r v).portGet other = s.portGet other := by
  rcases Nat.lt_or_ge other.toNat 16 with hin | hout
  · rw [State.portGet_ok hin, State.portGet_ok hin, State.reg_setReg_ne _ _ (Fin.ne_of_val_ne h)]
  · rw [State.portGet_error hout, State.portGet_error hout]

theorem State.fromArray_sameExcept (s : State) (bytes : Vector Byte 16) : SameExcept [.regs] s (s.fromArray bytes) := by
  intro p hp
  cases p with
  | regs => exact absurd (List.mem_singleton_self _) hp
  | _ => simp [Part.Same]

/-- Settles O57: an accepted write is a register write, and an index above 15 is refused before the registers are read. -/
theorem registerPortRoundTrips : Obligations.RegisterPortRoundTrips := by
  intro s index v
  refine ⟨fun hin => ?_, fun hout => ⟨State.portGet_error hout, State.portSet_error v hout⟩,
    fun bytes => ⟨rfl, s.fromArray_sameExcept bytes⟩⟩
  have hindex : index.toNat < 16 := Nat.lt_succ_of_le hin
  refine ⟨_, State.portSet_ok v hindex, ?_, fun other hne => ?_, s.setReg_sameExcept _ v⟩
  · rw [State.portGet_ok hindex, State.reg_setReg_same]
  · exact State.portGet_setReg_ne (mt BitVec.eq_of_toNat_eq hne)

/-- Settles O58: the snapshot lists the framebuffer's bits, and a cell is the bit at its place. -/
theorem snapshotIsRowMajor : Obligations.SnapshotIsRowMajor := by
  intro s x y h
  rw [State.snapshot, Vector.getElem_ofFn]
  rfl

theorem State.withGrant_sameExcept (s : State) (g : Grant) : SameExcept [.grant] s (s.withGrant g) := by
  intro p hp
  cases p with
  | grant => exact absurd (List.mem_singleton_self _) hp
  | _ => simp [Part.Same, State.withGrant, State.reg, State.byteAt]

/-- The grant is a part of the two display instructions alone (10_state.md R39). -/
theorem grant_mem_partsWrittenBy {i : Instr} (h : Part.grant ∈ partsWrittenBy i) :
    i = .clearDisplay ∨ ∃ x y n, i = .draw x y n := by
  cases i with
  | clearDisplay => exact .inl rfl
  | draw x y n => exact .inr ⟨x, y, n, rfl⟩
  | _ => simp [partsWrittenBy] at h

/-- A display instruction leaves nobody holding the grant. -/
theorem exec_fbGrant_of_display {i : Instr} (h : exec i s = .next t) (hi : Part.grant ∈ partsWrittenBy i) :
    t.fbGrant = .nobody := by
  rcases grant_mem_partsWrittenBy hi with rfl | ⟨x, y, n, rfl⟩
  all_goals
    cases h
    rfl

/-- Settles O59: the request is answered by the holder, and an instruction that changed the holder has the grant in its
parts. -/
theorem arbiterGrantsOneSide : Obligations.ArbiterGrantsOneSide := by
  intro s
  refine ⟨fun hfree => ?_, State.rendererRequest_of_held, fun i t h hne => ?_⟩
  · refine ⟨_, State.rendererRequest_of_free hfree, rfl, ?_, s.withGrant_sameExcept _⟩
    rw [State.rendererRelease_of_held rfl, State.withGrant, ← hfree]
    rfl
  · have hi : Part.grant ∈ partsWrittenBy i := by
      by_contra hi
      exact hne (exec_sameExcept h .grant hi)
    exact ⟨exec_fbGrant_of_display h hi, grant_mem_partsWrittenBy hi⟩

end Sys2Proof.Machine
end
